-- ==== Sys2Proof/Word.lean ====
section
/-! DEFINITION. The block's data types: bytes and pixels (00_scope.md R8, R13). -/
namespace Sys2Proof

/-- A `u8` (00_scope.md R10). -/
abbrev Byte := BitVec 8

/-- A pixel: four 8-bit channels, always four (00_scope.md R8, R13). Two pixels are equal when all four channels are. -/
structure Pixel where
  r : Byte
  g : Byte
  b : Byte
  a : Byte
  deriving DecidableEq, Repr

/-- An index into the running cache: every 6-bit value is one (20_memory.md R45). -/
abbrev CacheIndex := BitVec 6

/-- The four magic bytes of a header (00_scope.md R9). -/
abbrev Magic := Vector Byte 4

/-- What the header registers hold (10_state.md R21), as one record. -/
structure Header where
  width : BitVec 32
  height : BitVec 32
  channels : Byte
  colorspace : Byte
  deriving DecidableEq, Repr

end Sys2Proof
end

