-- ==== Sys2Proof/Config.lean ====
section
/-! DEFINITION. The parameters of the block (00_scope.md R8, R9): configuration, not state (10_state.md R17). -/
namespace Sys2Proof

/-- `MAGIC`, the open parameter (00_scope.md R9, 92_eei_decisions.md D4, 91_not_in_source.md N3): the spec names no
value, so this constant has no body and no proof can see one. Log entry 1. -/
opaque Config.magic : Magic

/-- `TRAILER`, seven zero bytes and then `0x01` (00_scope.md R8, 30_encoding.md R60). -/
def Config.trailer : Vector Byte 8 := #v[0x00, 0x00, 0x00, 0x00, 0x00, 0x00, 0x00, 0x01]

/-- `INIT_CUR` (00_scope.md R8, 10_state.md R19). -/
def Config.initCur : Pixel := ⟨0, 0, 0, 255⟩

/-- `INIT_CACHE_ENTRY` (00_scope.md R8, 10_state.md R20). -/
def Config.initCacheEntry : Pixel := ⟨0, 0, 0, 0⟩

end Sys2Proof
end

