-- ==== Sys2Proof/Syntax.lean ====
section
/-! DEFINITION. The six chunks, with raw field values (00_scope.md R15, 30_encoding.md R73): one constructor per row of
spec/opcode_table.json. -/
namespace Sys2Proof

/-- A chunk. Every field is unsigned and is taken straight from its bits (30_encoding.md R69). -/
inductive Instr where
  /-- `RGB(r,g,b)` (30_encoding.md R63). -/
  | rgb (r g b : Byte)
  /-- `RGBA(r,g,b,a)` (30_encoding.md R64). -/
  | rgba (r g b a : Byte)
  /-- `INDEX(i)` (30_encoding.md R65). -/
  | index (i : BitVec 6)
  /-- `DIFF(dr,dg,db)` (30_encoding.md R66). -/
  | diff (dr dg db : BitVec 2)
  /-- `LUMA(dg,dr_dg,db_dg)` (30_encoding.md R67). -/
  | luma (dg : BitVec 6) (drdg dbdg : BitVec 4)
  /-- `RUN(n)` (30_encoding.md R68). The field is 6 bits wide; only 0 to 61 are runs, see `Instr.wellFormed`. -/
  | run (n : BitVec 6)
  deriving DecidableEq, Repr

end Sys2Proof
end

