-- ==== Sys2Proof/WellFormed.lean ====
section
/-! DEFINITION. The field ranges of a chunk term (30_encoding.md R74). All ranges but RUN's are the ranges of the field
types of `Instr`. -/
namespace Sys2Proof

/-- A term that has an encoding. RUN's `n` is in [0,61], since the bytes that 62 and 63 would take are RGB's and RGBA's
tags (30_encoding.md R68, R72, R74). -/
def Instr.wellFormed : Instr → Bool
  | .rgb _ _ _ => true
  | .rgba _ _ _ _ => true
  | .index _ => true
  | .diff _ _ _ => true
  | .luma _ _ _ => true
  | .run n => n.toNat ≤ 61

end Sys2Proof
end

