-- ==== Sys2Proof/Decode.lean ====
section
/-! DEFINITION. The chunk decoder (30_encoding.md R61-R72, 41_tokenizer.md R85), total on any bytes, and after it the
encoder (30_encoding.md R74). -/
namespace Sys2Proof

/-- `plen(b0)`: the payload bytes a tag needs, from the tag alone (30_encoding.md R62). -/
def plenOf (b0 : Byte) : BitVec 3 :=
  if b0 = 0xFE then 3
  else if b0 = 0xFF then 4
  else if b0.extractLsb' 6 2 = 0b10#2 then 1
  else 0

/-- `chunk_of(b0, P)` (41_tokenizer.md R85): the full-byte tags first, then the two top bits (30_encoding.md R61).
Total, so UnrecognizedChunkError cannot arise from it (60_exceptions.md R111). -/
def chunkOf (b0 : Byte) (p : Vector Byte 4) : Instr :=
  if b0 = 0xFE then .rgb p[0] p[1] p[2]
  else if b0 = 0xFF then .rgba p[0] p[1] p[2] p[3]
  else if b0.extractLsb' 6 2 = 0b00#2 then .index (b0.extractLsb' 0 6)
  else if b0.extractLsb' 6 2 = 0b01#2 then .diff (b0.extractLsb' 4 2) (b0.extractLsb' 2 2) (b0.extractLsb' 0 2)
  else if b0.extractLsb' 6 2 = 0b10#2 then .luma (b0.extractLsb' 0 6) (p[0].extractLsb' 4 4) (p[0].extractLsb' 0 4)
  else .run (b0.extractLsb' 0 6)

/-- Why bytes are no chunk. Every tag is one (30_encoding.md R71), so the only reason is that bytes are missing. -/
inductive DecodeError where
  /-- There is no tag byte. -/
  | noTag
  /-- The tag needs more payload bytes than there are. -/
  | shortPayload (tag : Byte)
  deriving DecidableEq, Repr

/-- The first four of the bytes after a tag. A slot past the end is zero, and `decode` reads none such. -/
def payloadOf (rest : List Byte) : Vector Byte 4 :=
  #v[rest.getD 0 0, rest.getD 1 0, rest.getD 2 0, rest.getD 3 0]

/-- One chunk off the front of the bytes, with the bytes after it (41_tokenizer.md R87). -/
def decode : List Byte → Except DecodeError (Instr × List Byte)
  | [] => .error .noTag
  | b0 :: rest =>
    if rest.length < (plenOf b0).toNat then .error (.shortPayload b0)
    else .ok (chunkOf b0 (payloadOf rest), rest.drop (plenOf b0).toNat)

/-- The bytes 30_encoding.md R74's table gives a term, without its check of the field ranges. -/
def encodeBytes : Instr → List Byte
  | .rgb r g b => [0xFE, r, g, b]
  | .rgba r g b a => [0xFF, r, g, b, a]
  | .index i => [0b00#2 ++ i]
  | .diff dr dg db => [0b01#2 ++ dr ++ dg ++ db]
  | .luma dg drdg dbdg => [0b10#2 ++ dg, drdg ++ dbdg]
  | .run n => [0b11#2 ++ n]

/-- `enc(c)` (30_encoding.md R74): a term with a field out of its range has no encoding and is refused. -/
def encode (i : Instr) : Option (List Byte) :=
  if i.wellFormed then some (encodeBytes i) else none

/-- `be32(w)`: four bytes, most significant first (30_encoding.md R59, 20_memory.md R43). -/
def be32Bytes (w : BitVec 32) : List Byte :=
  [w.extractLsb' 24 8, w.extractLsb' 16 8, w.extractLsb' 8 8, w.extractLsb' 0 8]

/-- `enc(HEADER(w,h,c,s))` (30_encoding.md R74). -/
def encodeHeader (magic : Magic) (h : Header) : List Byte :=
  magic.toList ++ be32Bytes h.width ++ be32Bytes h.height ++ [h.channels, h.colorspace]

/-- `enc(TRAILER)` (30_encoding.md R74). -/
def encodeTrailer : List Byte := Config.trailer.toList

/-- The five bytes, as many as the longest chunk has (00_scope.md R8), of an instruction whose bits are `w` as
spec/opcode_table.json numbers them: bit 0 is the least significant bit of the first byte, and bits from `nbits` up are 0. -/
def tableBytes (nbits w : Nat) : List Byte :=
  let v := w % 2 ^ nbits
  [BitVec.ofNat 8 v, BitVec.ofNat 8 (v / 2 ^ 8), BitVec.ofNat 8 (v / 2 ^ 16), BitVec.ofNat 8 (v / 2 ^ 24),
    BitVec.ofNat 8 (v / 2 ^ 32)]

/-- The instruction `decode` reads from a word of spec/opcode_table.json. -/
def decodeTableWord (nbits w : Nat) : Option Instr :=
  match decode (tableBytes nbits w) with
  | .ok (i, _) => some i
  | .error _ => none

end Sys2Proof
end

