-- ==== Sys2Proof/Machine/Operands.lean ====
section
/-! DEFINITION. Operand forms: wrapping channel arithmetic (00_scope.md R11), biased fields (00_scope.md R12,
30_encoding.md R69), big-endian assembly (20_memory.md R43) and the cache index function (43_index_cache.md R91). -/
namespace Sys2Proof.Machine

/-- `x +w y`, addition modulo 256 (00_scope.md R11). It sets no flag and raises nothing (60_exceptions.md R116). -/
def addW (x y : Byte) : Byte := x + y

/-- `x -w y`, subtraction modulo 256 (00_scope.md R11). -/
def subW (x y : Byte) : Byte := x - y

/-- A DIFF channel: raw field of 2 bits, bias 2 (44_delta_chunks.md R95). -/
def diffChannel (c : Byte) (raw : BitVec 2) : Byte :=
  subW (addW c (raw.setWidth 8)) 2

/-- LUMA's `vg = dg - 32`, modulo 256 (44_delta_chunks.md R96). -/
def lumaGreen (dg : BitVec 6) : Byte :=
  subW (dg.setWidth 8) 32

/-- A red or blue LUMA channel: `vg` and then the 4-bit field with bias 8 (44_delta_chunks.md R96). -/
def lumaChannel (c vg : Byte) (raw : BitVec 4) : Byte :=
  subW (addW (addW c vg) (raw.setWidth 8)) 8

/-- RUN's repeat count `n + 1` (30_encoding.md R69). For `n ≤ 61` it fits REP's 6 bits. -/
def runCount (n : BitVec 6) : BitVec 6 := n + 1

/-- `{b3, b2, b1, b0}`: a big-endian u32, `b3` first in the stream (20_memory.md R43, 40_header.md R77). -/
def be32 (b3 b2 b1 b0 : Byte) : BitVec 32 := b3 ++ b2 ++ b1 ++ b0

/-- `hash(p)` (43_index_cache.md R91): the channels are unsigned and only the final mod 64 matters. -/
def pixelHash (p : Pixel) : CacheIndex :=
  BitVec.ofNat 6 ((p.r.toNat * 3 + p.g.toNat * 5 + p.b.toNat * 7 + p.a.toNat * 11) % 64)

end Sys2Proof.Machine
end

