-- ==== Sys2Proof/Machine/State.lean ====
section
/-! DEFINITION. The block's registers (10_state.md R17), its surroundings as plain data, and the state after reset
(10_state.md R35, 70_reset_and_hazards.md R123). -/
namespace Sys2Proof.Machine

/-- `PHASE` (10_state.md R18): what the block does at its next step. -/
inductive Phase where
  | hdr
  | tag
  | payload
  | emit
  | trailer
  | done
  | error
  deriving DecidableEq, Repr

/-- `ERR` (10_state.md R30). Codes 5 to 7 are never written, so no value stands for them (93_implementation_defined.md U9). -/
inductive Err where
  | none
  | header
  | truncated
  | trailerMismatch
  | unrecognizedChunk
  deriving DecidableEq, Repr

/-- The byte source as the block meets it (20_memory.md R38, R41): the bytes it will still return, and whether it answers
`End` after them or gives no answer yet. `End` is sticky: an ended source has no further bytes. Log entry 2. -/
structure Source where
  pending : List Byte
  ended : Bool
  deriving DecidableEq, Repr

/-- How many more pixels the consumer takes before it stops pulling (20_memory.md R50, 60_exceptions.md R120).
Log entry 10. -/
inductive Demand where
  /-- Every pixel offered. -/
  | always
  /-- The next `n` pixels. -/
  | count (n : Nat)
  deriving DecidableEq, Repr

/-- The block (10_state.md R17, in its order) and then its surroundings: the byte source, the consumer's demand, and the
pixels the consumer has taken. -/
structure State where
  phase : Phase
  cur : Pixel
  cache : Vector Pixel 64
  width : BitVec 32
  height : BitVec 32
  channels : Byte
  colorspace : Byte
  hdrValid : Bool
  total : BitVec 64
  emitted : BitVec 64
  bpos : Nat
  hcnt : BitVec 4
  hbuf : Vector Byte 14
  tag : Byte
  plen : BitVec 3
  pcnt : BitVec 3
  pbuf : Vector Byte 4
  rep : BitVec 6
  tcnt : BitVec 4
  err : Err
  source : Source
  demand : Demand
  out : List Pixel
  deriving DecidableEq, Repr

/-- Why the model stops. The block's own errors are no faults: they are next states in phase `error`
(60_exceptions.md R112). -/
inductive Fault where
  /-- Raised by `stepWith` alone, in a state whose PHASE has no enabled step because the state breaks 10_state.md R36.
  No run reaches such a state. Safe: the spec gives the state no step. Log entry 7. -/
  | notEnabled (p : Phase)
  deriving DecidableEq, Repr

/-- Why an instruction has no meaning. -/
inductive Refusal where
  /-- An arm of `exec` without a meaning. Raised by `exec` alone; no arm does so now. Safe. -/
  | notModelled (mnemonic : String)
  /-- Raised by `execRun` for RUN(62) and RUN(63), terms that have no encoding and must be refused (30_encoding.md R72,
  R74, 93_implementation_defined.md U12). No bytes decode to one. Safe. Log entry 8. -/
  | noEncoding (mnemonic : String)
  deriving DecidableEq, Repr

/-- The state after reset (10_state.md R35). The spec gives HBUF, PBUF and TAG 'no value' there (R34); the model holds
zeros in them, log entry 4. The source has given nothing yet and the consumer takes every pixel: log entries 3, 10. -/
def State.reset : State where
  phase := .hdr
  cur := Config.initCur
  cache := Vector.replicate 64 Config.initCacheEntry
  width := 0
  height := 0
  channels := 0
  colorspace := 0
  hdrValid := false
  total := 0
  emitted := 0
  bpos := 0
  hcnt := 0
  hbuf := Vector.replicate 14 0
  tag := 0
  plen := 0
  pcnt := 0
  pbuf := Vector.replicate 4 0
  rep := 0
  tcnt := 0
  err := .none
  source := ⟨[], false⟩
  demand := .always
  out := []

end Sys2Proof.Machine
end

