-- ==== Sys2Proof/Machine/Ops.lean ====
section
/-! DEFINITION. The named operations over the block's three spaces and its registers: ByteRead, CacheRead, CacheWrite, Emit
and raise (00_scope.md R14), commit (43_index_cache.md R93), the register loads of the header reader and the tokenizer,
and what the host can do (60_exceptions.md R120). -/
namespace Sys2Proof.Machine

/-- What a step answers. -/
abbrev Result := Host.Outcome State Fault Refusal

/-- The next state, if the outcome is one. -/
def next? : Result → Option State
  | .next s => some s
  | .fault _ => none
  | .refused _ => none

/-- The answer of one ByteRead (20_memory.md R38, R41): a byte, with the state after taking it; `End`; or none yet. -/
inductive Read where
  | byte (v : Byte) (s : State)
  | ended
  | waits
  deriving DecidableEq, Repr

/-- The source and BPOS after a byte has been taken, `rest` being what the source still holds (20_memory.md R38). -/
def consumeByte (rest : List Byte) (s : State) : State :=
  { s with source := { s.source with pending := rest }, bpos := s.bpos + 1 }

/-- `ByteRead()` (20_memory.md R38). On `End` and while it waits, nothing changes. -/
def byteRead (s : State) : Read :=
  match s.source.pending with
  | v :: rest => .byte v (consumeByte rest s)
  | [] => if s.source.ended then .ended else .waits

/-- `CacheRead(i)` (20_memory.md R46). -/
def cacheRead (i : CacheIndex) (s : State) : Pixel := s.cache[i.toNat]'i.isLt

/-- `CacheWrite(i, p)` (20_memory.md R47): unconditional, all four channels at once (R48). -/
def cacheWrite (i : CacheIndex) (p : Pixel) (s : State) : State :=
  { s with cache := s.cache.set i.toNat p i.isLt }

/-- `raise E`, the abort (60_exceptions.md R112): ERR and PHASE, and nothing else. -/
def raise (e : Err) (s : State) : State :=
  { s with err := e, phase := .error }

/-- `commit(new)`, the common effect of every non-RUN chunk (43_index_cache.md R93). -/
def commit (new : Pixel) (s : State) : State :=
  { cacheWrite (pixelHash new) new s with cur := new, rep := 1 }

/-- The output sequence and EMITTED after the consumer has taken CUR as pixel number EMITTED (20_memory.md R50). -/
def takePixel (d : Demand) (s : State) : State :=
  { s with emitted := s.emitted + 1, out := s.out ++ [s.cur], demand := d }

/-- `Emit(CUR)` (20_memory.md R50): none while the consumer does not take the pixel. -/
def emitCur (s : State) : Option State :=
  match s.demand with
  | .always => some (takePixel .always s)
  | .count 0 => none
  | .count (n + 1) => some (takePixel (.count n) s)

/-- `HBUF[HCNT] <- v; HCNT <- HCNT + 1` (40_header.md R76). -/
def storeHeaderByte (v : Byte) (s : State) : State :=
  { s with hbuf := s.hbuf.setIfInBounds s.hcnt.toNat v, hcnt := s.hcnt + 1 }

/-- The header registers from HBUF, big-endian, whether or not the checks pass (40_header.md R77). -/
def loadHeader (s : State) : State :=
  { s with
    width := be32 s.hbuf[4] s.hbuf[5] s.hbuf[6] s.hbuf[7]
    height := be32 s.hbuf[8] s.hbuf[9] s.hbuf[10] s.hbuf[11]
    channels := s.hbuf[12]
    colorspace := s.hbuf[13] }

/-- The acceptance of a header (40_header.md R78): HDR_VALID, the exact 64-bit TOTAL (10_state.md R23) and PHASE. -/
def acceptHeader (s : State) : State :=
  { s with hdrValid := true, total := s.width.setWidth 64 * s.height.setWidth 64, phase := .tag }

/-- `TAG <- v; PLEN <- p; PCNT <- 0` (41_tokenizer.md R83). -/
def latchTag (v : Byte) (p : BitVec 3) (s : State) : State :=
  { s with tag := v, plen := p, pcnt := 0 }

/-- `PBUF[PCNT] <- v; PCNT <- PCNT + 1` (41_tokenizer.md R84). -/
def latchPayload (v : Byte) (s : State) : State :=
  { s with pbuf := s.pbuf.setIfInBounds s.pcnt.toNat v, pcnt := s.pcnt + 1 }

/-- `PHASE <- p`. -/
def setPhase (p : Phase) (s : State) : State := { s with phase := p }

/-- Reset, from any state (70_reset_and_hazards.md R123): every register at its reset value, and the host presents a source
at file start (60_exceptions.md R120). Nothing of the state before survives (R126). -/
def State.hostReset (src : Source) (d : Demand) (_ : State) : State :=
  { State.reset with source := src, demand := d }

/-- The host's source gains bytes. A source that has ended gains none (60_exceptions.md R120: answering a byte after `End`
is outside the contract, and the model has no run for it, 93_implementation_defined.md U11). -/
def State.supply (bs : List Byte) (s : State) : Option State :=
  if s.source.ended then none
  else some { s with source := { s.source with pending := s.source.pending ++ bs } }

/-- The host's source will answer `End` after the bytes it still holds (20_memory.md R38). -/
def State.endSource (s : State) : State :=
  { s with source := { s.source with ended := true } }

/-- The consumer changes how many more pixels it takes (60_exceptions.md R120). -/
def State.setDemand (d : Demand) (s : State) : State := { s with demand := d }

end Sys2Proof.Machine
end

