-- ==== Sys2Proof/Machine/Color.lean ====
section
/-! DEFINITION. The explicit-colour chunks RGB and RGBA (42_color_chunks.md). -/
namespace Sys2Proof.Machine

/-- `exec_RGB` (42_color_chunks.md R88): alpha is always CUR's. -/
def execRgb (r g b : Byte) (s : State) : Result :=
  .next (commit ⟨r, g, b, s.cur.a⟩ s)

/-- `exec_RGBA` (42_color_chunks.md R89): the result does not depend on CUR. -/
def execRgba (r g b a : Byte) (s : State) : Result :=
  .next (commit ⟨r, g, b, a⟩ s)

end Sys2Proof.Machine
end

