-- ==== Sys2Proof/Machine/Delta.lean ====
section
/-! DEFINITION. The delta chunks DIFF and LUMA (44_delta_chunks.md). -/
namespace Sys2Proof.Machine

/-- `exec_DIFF` (44_delta_chunks.md R95): three independent lanes, alpha unchanged. -/
def execDiff (dr dg db : BitVec 2) (s : State) : Result :=
  .next (commit ⟨diffChannel s.cur.r dr, diffChannel s.cur.g dg, diffChannel s.cur.b db, s.cur.a⟩ s)

/-- `exec_LUMA` (44_delta_chunks.md R96): red and blue relative to the green delta, alpha unchanged. -/
def execLuma (dg : BitVec 6) (drdg dbdg : BitVec 4) (s : State) : Result :=
  .next (commit
    ⟨lumaChannel s.cur.r (lumaGreen dg) drdg, addW s.cur.g (lumaGreen dg), lumaChannel s.cur.b (lumaGreen dg) dbdg,
      s.cur.a⟩ s)

end Sys2Proof.Machine
end

