-- ==== Sys2Proof/Machine/Index.lean ====
section
/-! DEFINITION. The INDEX chunk (43_index_cache.md). -/
namespace Sys2Proof.Machine

/-- `exec_INDEX` (43_index_cache.md R90): the read comes before the commit's write (70_reset_and_hazards.md R129), and the
commit may write another slot than `i` (R94). -/
def execIndex (i : BitVec 6) (s : State) : Result :=
  .next (commit (cacheRead i s) s)

end Sys2Proof.Machine
end

