-- ==== Sys2Proof/Machine/Run.lean ====
section
/-! DEFINITION. The RUN chunk (45_run_chunk.md). -/
namespace Sys2Proof.Machine

/-- `exec_RUN` (45_run_chunk.md R97): REP alone; CUR and CACHE are unchanged (R98, 90_conflicts.md C2). RUN(62) and RUN(63)
do not exist and are refused (30_encoding.md R72, R74). -/
def execRun (n : BitVec 6) (s : State) : Result :=
  if n.toNat ≤ 61 then .next { s with rep := runCount n } else .refused (.noEncoding "RUN")

end Sys2Proof.Machine
end

