-- ==== Sys2Proof/Machine/Phases.lean ====
section
/-! DEFINITION. The step relation (46_framing.md R103): one definition per phase, each in the order of the spec's pseudocode.
A step reads at most one byte or emits one pixel. A step that waits answers the state unchanged (R41, R50, log entry 5). -/
namespace Sys2Proof.Machine

/-- The checks of `header_check()` (40_header.md R78), on the registers R77 has loaded. -/
def checkHeader (magic : Magic) (s : State) : State :=
  if #v[s.hbuf[0], s.hbuf[1], s.hbuf[2], s.hbuf[3]] ≠ magic then raise .header s
  else if s.width = 0 then raise .header s
  else if s.height = 0 then raise .header s
  else acceptHeader s

/-- The header byte step (40_header.md R76). -/
def headerStep (magic : Magic) (s : State) : Result :=
  match byteRead s with
  | .waits => .next s
  | .ended => .next (raise .header s)
  | .byte v s1 =>
    let s2 := storeHeaderByte v s1
    if s2.hcnt = 14 then .next (checkHeader magic (loadHeader s2)) else .next s2

/-- The end of `apply_chunk()` (41_tokenizer.md R86): after the chunk's effect, PHASE is EMIT. -/
def afterExec : Result → Result
  | .next s => .next (setPhase .emit s)
  | .fault f => .fault f
  | .refused r => .refused r

/-- `apply_chunk()` for the chunk `i` (41_tokenizer.md R86). -/
def applyChunk (i : Instr) (s : State) : Result := afterExec (exec i s)

/-- The tag fetch step (41_tokenizer.md R83). -/
def tagStep (s : State) : Result :=
  match byteRead s with
  | .waits => .next s
  | .ended => .next (raise .truncated s)
  | .byte v s1 =>
    let s2 := latchTag v (plenOf v) s1
    if s2.plen = 0 then applyChunk (chunkOf s2.tag s2.pbuf) s2 else .next (setPhase .payload s2)

/-- The payload byte step (41_tokenizer.md R84). -/
def payloadStep (s : State) : Result :=
  match byteRead s with
  | .waits => .next s
  | .ended => .next (raise .truncated s)
  | .byte v s1 =>
    let s2 := latchPayload v s1
    if s2.pcnt = s2.plen then applyChunk (chunkOf s2.tag s2.pbuf) s2 else .next s2

/-- What follows an Emit in the emit step (46_framing.md R99), on the state after it. -/
def afterEmit (s : State) : State :=
  let s1 := { s with rep := s.rep - 1 }
  if s1.emitted = s1.total then { s1 with rep := 0, tcnt := 0, phase := .trailer }
  else if s1.rep = 0 then setPhase .tag s1
  else s1

/-- The emit step (46_framing.md R99). -/
def emitStep (s : State) : Result :=
  match emitCur s with
  | none => .next s
  | some s1 => .next (afterEmit s1)

/-- `TRAILER[k]` for the 4-bit count TCNT (46_framing.md R101). It is read only while `TCNT < 8`. -/
def trailerByte (k : BitVec 4) : Byte := Config.trailer.toList.getD k.toNat 0

/-- The trailer check step (46_framing.md R101). -/
def trailerStep (s : State) : Result :=
  if s.tcnt.toNat < 8 then
    match byteRead s with
    | .waits => .next s
    | .ended => .next (raise .trailerMismatch s)
    | .byte v s1 =>
      if v = trailerByte s1.tcnt then .next { s1 with tcnt := s1.tcnt + 1 } else .next (raise .trailerMismatch s1)
  else
    match byteRead s with
    | .waits => .next s
    | .ended => .next (setPhase .done s)
    | .byte _ s1 => .next (raise .trailerMismatch s1)

/-- When the step of the state's PHASE is enabled: the conditions the step rules name (40_header.md R76, 41_tokenizer.md
R83, R84, 46_framing.md R99, R101), which every reachable state meets (10_state.md R36). Log entry 7. DONE and ERROR have no step
in the spec (R103); they count as enabled here, since the model's step answers the same state there. Log entry 6. -/
def enabled (s : State) : Bool :=
  match s.phase with
  | .hdr => s.hcnt.toNat < 14
  | .tag => s.emitted.toNat < s.total.toNat
  | .payload => s.pcnt.toNat < s.plen.toNat && s.plen.toNat ≤ 4
  | .emit => 1 ≤ s.rep.toNat && s.emitted.toNat < s.total.toNat
  | .trailer => s.tcnt.toNat ≤ 8
  | .done => true
  | .error => true

/-- One step (46_framing.md R103), for a block whose MAGIC is `magic` (00_scope.md R9). DONE and ERROR are quiescent until
reset: the step leaves the state as it is (log entry 6). -/
def stepWith (magic : Magic) (s : State) : Result :=
  if enabled s then
    match s.phase with
    | .hdr => headerStep magic s
    | .tag => tagStep s
    | .payload => payloadStep s
    | .emit => emitStep s
    | .trailer => trailerStep s
    | .done => .next s
    | .error => .next s
  else .fault (.notEnabled s.phase)

/-- `k` steps of `stepWith`, stopping at the first fault or refusal. -/
def runWith (magic : Magic) : Nat → State → Result
  | 0, s => .next s
  | k + 1, s =>
    match stepWith magic s with
    | .next t => runWith magic k t
    | .fault f => .fault f
    | .refused r => .refused r

/-- A pixel still owed, which a tag fetch needs (41_tokenizer.md R82, R83): the counters stay where they are if one is. -/
def owePixel (s : State) : State :=
  if s.emitted.toNat < s.total.toNat then s else { s with emitted := 0, total := 1 }

/-- `bs` in front of the bytes the source still holds. -/
def pushSource (bs : List Byte) (s : State) : State :=
  { s with source := { s.source with pending := bs ++ s.source.pending } }

/-- The first chunk of `bytes` where the very next step runs it. That step reads the chunk's last byte and applies the chunk
in the same step (41_tokenizer.md R86), so the bytes before the last are already in TAG and PBUF. Log entry 13. -/
def placeBytes (bytes : List Byte) (s : State) : State :=
  match bytes with
  | [] => s
  | b0 :: rest =>
    match (plenOf b0).toNat with
    | 0 => setPhase .tag (pushSource [b0] (owePixel s))
    | n + 1 =>
      (rest.take n).foldl (fun t v => latchPayload v t)
        (setPhase .payload (latchTag b0 (plenOf b0) (pushSource ((rest.drop n).take 1) (owePixel s))))

end Sys2Proof.Machine
end

