-- ==== Sys2Proof/Machine/Step.lean ====
section
/-! DEFINITION. The machine's step, and where it finds its next instruction. -/
namespace Sys2Proof.Machine

/-- One step of the block with the open parameter MAGIC (46_framing.md R103, Config.magic). -/
def step (s : State) : Host.Outcome State Fault Refusal := stepWith Config.magic s

/-- `s` with the instruction of a word of spec/opcode_table.json where the very next step runs it: all of the chunk's bytes
but the last have been taken, the last is the source's next byte, and the header has been passed. This stands for the
fourteen header steps and the chunk's earlier byte steps. Log entry 13. -/
def State.withFetchWord (s : State) (nbits w : Nat) : State := placeBytes (tableBytes nbits w) s

end Sys2Proof.Machine
end

