-- ==== Sys2Proof/Machine/Flags.lean ====
section
/-! DEFINITION. The block has no condition codes (10_state.md R32). This file holds the status outputs: STATUS, computed
from PHASE (10_state.md R31), and the numeric codes of STATUS and ERR (10_state.md R30, R31). -/
namespace Sys2Proof.Machine

/-- `STATUS` (10_state.md R31). Code 3 is never output, so no value stands for it (93_implementation_defined.md U9). -/
inductive Status where
  | busy
  | doneOk
  | failed
  deriving DecidableEq, Repr

/-- `STATUS` as computed from `PHASE` (10_state.md R31). -/
def statusOf : Phase → Status
  | .hdr => .busy
  | .tag => .busy
  | .payload => .busy
  | .emit => .busy
  | .trailer => .busy
  | .done => .doneOk
  | .error => .failed

/-- The STATUS output of a state. -/
def status (s : State) : Status := statusOf s.phase

/-- The 2-bit code of STATUS (10_state.md R31). -/
def statusCode : Status → BitVec 2
  | .busy => 0
  | .doneOk => 1
  | .failed => 2

/-- The 3-bit code of ERR (10_state.md R30, 60_exceptions.md R107). -/
def errCode : Err → BitVec 3
  | .none => 0
  | .header => 1
  | .truncated => 2
  | .trailerMismatch => 3
  | .unrecognizedChunk => 4

/-- The header outputs (10_state.md R31). -/
def headerOf (s : State) : Header := ⟨s.width, s.height, s.channels, s.colorspace⟩

end Sys2Proof.Machine
end

