-- ==== Sys2Proof/Machine/HostOps.lean ====
section
/-! DEFINITION. The public operations as runs of the block (40_header.md R81, 46_framing.md R105, R106). Each takes the
parameter MAGIC; the ones that run until something happens take a number of steps, since the source or the consumer may keep
the block waiting without limit (60_exceptions.md R121). Log entry 12. -/
namespace Sys2Proof.Machine

/-- The decoded image (46_framing.md R105). -/
structure DecodedImage where
  header : Header
  pixels : List Pixel
  deriving DecidableEq, Repr

/-- The pixel at column `x` of row `y`: the order is row-major (20_memory.md R51). DESIGN CHOICE: at a column or row the image
does not have, of which the spec says nothing, there is none. Log entry 18. -/
def DecodedImage.pixelAt (img : DecodedImage) (x y : Nat) : Option Pixel :=
  if x < img.header.width.toNat then img.pixels[y * img.header.width.toNat + x]? else none

/-- The result of a decode: an image in DONE, and none otherwise (46_framing.md R105). -/
def imageOf (s : State) : Option DecodedImage :=
  if s.phase = .done then some ⟨headerOf s, s.out⟩ else none

/-- Reset, with a source that holds these bytes and then `End`, and a consumer that takes every pixel. -/
def startOn (bs : List Byte) : State := State.hostReset ⟨bs, true⟩ .always State.reset

/-- The answers of `decode_header` (40_header.md R81). -/
inductive HeaderAnswer where
  | header (h : Header)
  | error (e : Err)
  /-- The source keeps the block waiting inside the header (20_memory.md R41). -/
  | waiting
  deriving DecidableEq, Repr

/-- `open_decoder(byte_source)`: reset and the header phase, at most fourteen byte reads (46_framing.md R106). The consumer
takes nothing until it pulls. DESIGN CHOICE, where the spec says only that it gives a handle to the running block: a handle
comes in any case. If the source keeps the block waiting inside the header, it is a handle in HDR, and the next pull goes on
with the header; if the header fails, it is a handle in ERROR, and the next pull answers the error. The answer none, for a
fault or a refusal, never arises. Log entry 19. -/
def openDecoder (magic : Magic) (src : Source) : Option State :=
  next? (runWith magic 14 (State.hostReset src (.count 0) State.reset))

/-- `decode_header(byte_source)` (40_header.md R81). -/
def decodeHeader (magic : Magic) (src : Source) : HeaderAnswer :=
  match openDecoder magic src with
  | some s => if s.phase = .error then .error s.err else if s.phase = .hdr then .waiting else .header (headerOf s)
  | none => .waiting

/-- The answers of `next_pixel` (46_framing.md R106, 92_eei_decisions.md D10). -/
inductive Pull where
  | pixel (p : Pixel)
  | endOfImage
  | error (e : Err)
  deriving DecidableEq, Repr

/-- Runs steps until an Emit, DONE or ERROR; none if `k` steps do not reach one. -/
def pullFrom (magic : Magic) : Nat → State → Option (Pull × State)
  | k, s =>
    match s.phase with
    | .done => some (.endOfImage, s)
    | .error => some (.error s.err, s)
    | _ =>
      match k with
      | 0 => none
      | k + 1 =>
        match stepWith magic s with
        | .next t => if t.emitted = s.emitted then pullFrom magic k t else some (.pixel s.cur, t)
        | _ => none

/-- `next_pixel(handle)` (46_framing.md R106): the consumer asks for one pixel. -/
def nextPixel (magic : Magic) (k : Nat) (s : State) : Option (Pull × State) :=
  pullFrom magic k (s.setDemand (.count 1))

/-- The answers of `decode_image` (46_framing.md R106). -/
inductive ImageAnswer where
  | image (img : DecodedImage)
  | error (e : Err)
  /-- Neither DONE nor ERROR within the steps given. -/
  | running
  deriving DecidableEq, Repr

/-- Enough steps for any input of this many bytes: every step that does not wait consumes a byte or emits a pixel
(60_exceptions.md R121), a chunk emits at most 62 pixels (00_scope.md R8), and one read returns `End`. -/
def stepBound (n : Nat) : Nat := 63 * n + 1

/-- `decode_image(byte_source)` (46_framing.md R106) on a source of these bytes and then `End`. -/
def decodeImage (magic : Magic) (bs : List Byte) : ImageAnswer :=
  match next? (runWith magic (stepBound bs.length) (startOn bs)) with
  | some s =>
    match imageOf s with
    | some img => .image img
    | none => if s.phase = .error then .error s.err else .running
  | none => .running

end Sys2Proof.Machine
end

