-- ==== Sys2Proof/Machine/Reference.lean ====
section
/-! DEFINITION. The reference function `decode(B)` of 46_framing.md R104, written from its pseudocode and not from the step
relation: whole chunks at a time, over a byte list, with its own arithmetic over the integers (00_scope.md R11). -/
namespace Sys2Proof.Machine.Reference

/-- What `decode(B)` returns: the final PHASE and ERR, the pixels emitted, the bytes consumed, and the header fields once 14
bytes have been read. -/
structure Answer where
  phase : Phase
  err : Err
  out : List Pixel
  pos : Nat
  header : Option Header
  deriving DecidableEq, Repr

/-- An integer as a channel, modulo 256 (00_scope.md R11). -/
def channel (v : Int) : Byte := BitVec.ofInt 8 v

/-- The field `b[hi:lo]` of `width` bits from bit `lo` (00_scope.md R10), as a number. -/
def field (b : Byte) (lo width : Nat) : Nat := b.toNat / 2 ^ lo % 2 ^ width

/-- `cache[hash(p)] <- p`. -/
def remember (p : Pixel) (cache : Vector Pixel 64) : Vector Pixel 64 :=
  cache.setIfInBounds ((p.r.toNat * 3 + p.g.toNat * 5 + p.b.toNat * 7 + p.a.toNat * 11) % 64) p

/-- `repeat rep times: if len(out) < total then out <- out ++ [cur]`. -/
def emitUpTo (total : Nat) (cur : Pixel) : Nat → List Pixel → List Pixel
  | 0, out => out
  | k + 1, out => emitUpTo total cur k (if out.length < total then out ++ [cur] else out)

/-- The trailer loop and the read after it: `expect` holds what is still to be matched. -/
def trailer (h : Option Header) (out : List Pixel) : Nat → List Byte → List Byte → Answer
  | pos, [], [] => ⟨.done, .none, out, pos, h⟩
  | pos, [], _ :: _ => ⟨.error, .trailerMismatch, out, pos + 1, h⟩
  | pos, _ :: _, [] => ⟨.error, .trailerMismatch, out, pos, h⟩
  | pos, t :: ts, v :: vs =>
    if v = t then trailer h out (pos + 1) ts vs else ⟨.error, .trailerMismatch, out, pos + 1, h⟩

/-- The chunk loop. Its last argument is what is left of the input, and `pos` counts the bytes before it. -/
def chunks (h : Option Header) (total : Nat) : Pixel → Vector Pixel 64 → List Pixel → Nat → List Byte → Answer
  | _, _, out, pos, [] =>
    if out.length < total then ⟨.error, .truncated, out, pos, h⟩ else trailer h out pos Config.trailer.toList []
  | cur, cache, out, pos, b0 :: rest =>
    if out.length < total then
      if b0 = 0xFE then
        match rest with
        | r :: g :: b :: rest' =>
          let new : Pixel := ⟨r, g, b, cur.a⟩
          chunks h total new (remember new cache) (emitUpTo total new 1 out) (pos + 4) rest'
        | short => ⟨.error, .truncated, out, pos + 1 + short.length, h⟩
      else if b0 = 0xFF then
        match rest with
        | r :: g :: b :: a :: rest' =>
          let new : Pixel := ⟨r, g, b, a⟩
          chunks h total new (remember new cache) (emitUpTo total new 1 out) (pos + 5) rest'
        | short => ⟨.error, .truncated, out, pos + 1 + short.length, h⟩
      else if field b0 6 2 = 0 then
        let new : Pixel := cache.toList.getD (field b0 0 6) Config.initCacheEntry
        chunks h total new (remember new cache) (emitUpTo total new 1 out) (pos + 1) rest
      else if field b0 6 2 = 1 then
        let new : Pixel :=
          ⟨channel (cur.r.toNat + field b0 4 2 - 2), channel (cur.g.toNat + field b0 2 2 - 2),
            channel (cur.b.toNat + field b0 0 2 - 2), cur.a⟩
        chunks h total new (remember new cache) (emitUpTo total new 1 out) (pos + 1) rest
      else if field b0 6 2 = 2 then
        match rest with
        | b1 :: rest' =>
          let vg : Int := field b0 0 6 - 32
          let new : Pixel :=
            ⟨channel (cur.r.toNat + vg + field b1 4 4 - 8), channel (cur.g.toNat + vg),
              channel (cur.b.toNat + vg + field b1 0 4 - 8), cur.a⟩
          chunks h total new (remember new cache) (emitUpTo total new 1 out) (pos + 2) rest'
        | [] => ⟨.error, .truncated, out, pos + 1, h⟩
      else
        chunks h total cur cache (emitUpTo total cur (field b0 0 6 + 1) out) (pos + 1) rest
    else trailer h out pos Config.trailer.toList (b0 :: rest)

/-- Four bytes, most significant first, as a number. -/
def be32Nat (b3 b2 b1 b0 : Byte) : Nat :=
  b3.toNat * 2 ^ 24 + b2.toNat * 2 ^ 16 + b1.toNat * 2 ^ 8 + b0.toNat

/-- `decode(B)` (46_framing.md R104). -/
def decode (magic : Magic) : List Byte → Answer
  | h0 :: h1 :: h2 :: h3 :: w0 :: w1 :: w2 :: w3 :: t0 :: t1 :: t2 :: t3 :: c :: sp :: rest =>
    let w := be32Nat w0 w1 w2 w3
    let ht := be32Nat t0 t1 t2 t3
    let h : Option Header := some ⟨BitVec.ofNat 32 w, BitVec.ofNat 32 ht, c, sp⟩
    if [h0, h1, h2, h3] ≠ magic.toList ∨ w = 0 ∨ ht = 0 then ⟨.error, .header, [], 14, h⟩
    else chunks h (w * ht) Config.initCur (Vector.replicate 64 Config.initCacheEntry) [] 14 rest
  | short => ⟨.error, .header, [], short.length, none⟩

/-- The state shows what the answer says (46_framing.md R104's list: pixels, PHASE and ERR, header registers, BPOS). The
header registers are compared once all 14 header bytes have been read: before that `decode(B)` has no header. -/
def Answer.shownBy (a : Answer) (s : State) : Prop :=
  s.phase = a.phase ∧ s.err = a.err ∧ s.out = a.out ∧ s.bpos = a.pos ∧ ∀ h, a.header = some h → headerOf s = h

end Sys2Proof.Machine.Reference
end

