-- ==== Sys2Proof/Safety.lean ====
section
/-! DEFINITION. What claims call a legal state (10_state.md R36) and a safe step, and the relations claims compare runs by. -/
namespace Sys2Proof.Machine

/-- The invariants of every reachable state: 10_state.md R36, items 1 to 9, and with them what they rest on (R21 to R24, R26 to
R29, 40_header.md R80, 60_exceptions.md R107). -/
structure State.Inv (s : State) : Prop where
  /-- In HDR a header byte is still to come, nothing has been accepted, BPOS counts the header bytes, and no repeat is owed
  (R26, R28, R76). -/
  header_phase : s.phase = .hdr → s.hcnt.toNat < 14 ∧ s.hdrValid = false ∧ s.bpos = s.hcnt.toNat ∧ s.rep = 0
  /-- Until a header is accepted no pixel is emitted and CUR and CACHE keep their reset values (R35, R80). -/
  before_header : s.hdrValid = false →
    s.total = 0 ∧ s.emitted = 0 ∧ s.cur = Config.initCur ∧ s.cache = Vector.replicate 64 Config.initCacheEntry
  /-- R36 item 1: past the header, the header is valid. -/
  accepted : s.phase ≠ .hdr → s.phase ≠ .error → s.hdrValid = true
  /-- A valid header has been read whole (R22, R78). -/
  read_whole : s.hdrValid = true → s.hcnt = 14
  /-- The header registers hold what the 14 header bytes say (R21, R77). -/
  header_registers : s.hcnt = 14 →
    headerOf s = ⟨be32 s.hbuf[4] s.hbuf[5] s.hbuf[6] s.hbuf[7], be32 s.hbuf[8] s.hbuf[9] s.hbuf[10] s.hbuf[11],
      s.hbuf[12], s.hbuf[13]⟩
  /-- R23, and R36 item 1: TOTAL is the exact product and at least 1. -/
  total_exact : s.hdrValid = true → s.total.toNat = s.width.toNat * s.height.toNat ∧ 1 ≤ s.total.toNat
  /-- R36 item 2. -/
  emitted_le_total : s.hdrValid = true → s.emitted.toNat ≤ s.total.toNat
  /-- R36 item 3. -/
  tag_phase : s.phase = .tag → s.emitted.toNat < s.total.toNat ∧ s.rep = 0
  /-- R36 item 4. -/
  emit_phase : s.phase = .emit → 1 ≤ s.rep.toNat ∧ s.rep.toNat ≤ 62 ∧ s.emitted.toNat < s.total.toNat
  /-- R36 item 5, and R27: PLEN is what TAG needs. A chunk is read only while a pixel is owed (R82). -/
  payload_phase : s.phase = .payload →
    s.pcnt.toNat < s.plen.toNat ∧ s.plen = plenOf s.tag ∧ s.emitted.toNat < s.total.toNat ∧ s.rep = 0
  /-- R36 item 6. -/
  trailer_phase : s.phase = .trailer → s.emitted = s.total ∧ s.tcnt.toNat ≤ 8
  /-- TCNT counts only in the trailer (R29). -/
  before_trailer : s.phase = .hdr ∨ s.phase = .tag ∨ s.phase = .payload ∨ s.phase = .emit → s.tcnt = 0
  /-- R36 item 7. -/
  done_phase : s.phase = .done → s.emitted = s.total ∧ s.tcnt = 8 ∧ s.err = .none
  /-- R36 item 8. -/
  error_iff : s.phase = .error ↔ s.err ≠ .none
  /-- R36 item 9: once a non-RUN chunk has been applied, `CACHE[hash(CUR)] = CUR`; before that, both are as after reset. -/
  cache_holds_cur :
    (s.cur = Config.initCur ∧ s.cache = Vector.replicate 64 Config.initCacheEntry) ∨ cacheRead (pixelHash s.cur) s = s.cur
  /-- The consumer has taken EMITTED pixels (R24, 20_memory.md R50). -/
  out_length : s.out.length = s.emitted.toNat
  /-- R107, R108: a HeaderError comes before any pixel and before acceptance. -/
  header_error : s.err = .header → s.hdrValid = false ∧ s.emitted = 0
  /-- R107, R109: a truncation comes before the last pixel. -/
  truncated_error : s.err = .truncated → s.hdrValid = true ∧ s.emitted.toNat < s.total.toNat
  /-- R107, R110: a trailer mismatch comes after the last pixel. -/
  trailer_error : s.err = .trailerMismatch → s.hdrValid = true ∧ s.emitted = s.total ∧ s.tcnt.toNat ≤ 8
  /-- R111: no input raises UNRECOGNIZED_CHUNK. -/
  recognized : s.err ≠ .unrecognizedChunk

/-- A step that neither faults nor refuses and leaves a legal state. -/
def Safe (o : Result) : Prop := ∃ t, o = .next t ∧ t.Inv

/-- `k` steps of the machine lead from `s` to `t`, none of them a fault or a refusal. -/
def reaches (k : Nat) (s t : State) : Prop := Host.Core.run Sys2Proof.core k s = .next t

/-- DONE and ERROR, the only final states (46_framing.md R103). -/
def State.final (s : State) : Prop := s.phase = .done ∨ s.phase = .error

/-- The source still answers every read, with a byte or with `End`, and the consumer takes every pixel
(60_exceptions.md R121: 'a decode whose counterparts keep answering'). -/
def State.answered (s : State) : Prop := s.source.ended = true ∧ s.demand = .always

/-- A bound on the steps a state has left: 63 for each byte not yet read, one for each repeat not yet emitted, and one for the
step into DONE or ERROR (60_exceptions.md R121, 00_scope.md R8). -/
def State.stepsLeft (s : State) : Nat :=
  63 * s.source.pending.length + s.rep.toNat + (if s.phase = .done ∨ s.phase = .error then 0 else 1)

/-- The state without what header bytes 12 and 13 put into it (40_header.md R79). -/
def State.dropMeta (s : State) : State :=
  { s with channels := 0, colorspace := 0, hbuf := (s.hbuf.set 12 0).set 13 0 }

/-- The two states agree on every register slot that holds a value (10_state.md R34): HBUF below HCNT, and, in PAYLOAD alone
(R27), TAG, PLEN, PCNT, and PBUF below PCNT. -/
def State.sameWritten (s t : State) : Prop :=
  { t with hbuf := s.hbuf, tag := s.tag, plen := s.plen, pcnt := s.pcnt, pbuf := s.pbuf } = s ∧
  (∀ j : Fin 14, j.val < s.hcnt.toNat → t.hbuf[j] = s.hbuf[j]) ∧
  (s.phase = .payload →
    t.tag = s.tag ∧ t.plen = s.plen ∧ t.pcnt = s.pcnt ∧ ∀ k : Fin 4, k.val < s.pcnt.toNat → t.pbuf[k] = s.pbuf[k])

/-- The bytes of the chunk in hand once the byte `v` has been read: a tag in TAG, and in PAYLOAD the tag, the payload so far
and `v` (41_tokenizer.md R83, R84, R87). -/
def State.chunkWith (s : State) (v : Byte) : List Byte :=
  if s.phase = .tag then [v] else s.tag :: (s.pbuf.toList.take s.pcnt.toNat ++ [v])

/-- The state in which a chunk is applied once its last byte `v` has been read, `rest` being left in the source: the source
and BPOS, and the tokenizer's registers (41_tokenizer.md R83, R84). -/
def State.chunkRead (s : State) (v : Byte) (rest : List Byte) : State :=
  if s.phase = .tag then latchTag v (plenOf v) (consumeByte rest s) else latchPayload v (consumeByte rest s)

/-- The step from here reads the last byte of the chunk `i` and so applies it (41_tokenizer.md R83, R84, R86). -/
def State.appliesChunk (s : State) (i : Instr) : Prop :=
  ∃ v rest, (s.phase = .tag ∨ s.phase = .payload) ∧ s.source.pending = v :: rest ∧ decode (s.chunkWith v) = .ok (i, [])

/-- What may happen between two resets: a step, or what the host may do (60_exceptions.md R120). -/
inductive Moves : State → State → Prop where
  | step {s t : State} : Machine.step s = .next t → Moves s t
  | supply {s t : State} {bs : List Byte} : s.supply bs = some t → Moves s t
  | endSource {s : State} : Moves s s.endSource
  | setDemand {s : State} {d : Demand} : Moves s (s.setDemand d)

/-- The states reached from a reset. -/
inductive Reachable : State → Prop where
  | reset (src : Source) (d : Demand) (s : State) : Reachable (State.hostReset src d s)
  | move {s t : State} : Reachable s → Moves s t → Reachable t

/-- The states reached from a reset after which some non-RUN chunk has been applied (10_state.md R36 item 9). -/
inductive Committed : State → Prop where
  | chunk {s t : State} {i : Instr} :
      Reachable s → s.appliesChunk i → (∀ n, i ≠ .run n) → Machine.step s = .next t → Committed t
  | move {s t : State} : Committed s → Moves s t → Committed t

end Sys2Proof.Machine
end

