-- ==== Sys2Proof/Certificates/Slice0/Obligations.lean ====
section
/-! DEFINITION. The statements for the provers. Each docstring names the rule of the spec that it formalises. -/

open Sys2Proof Sys2Proof.Machine

/-! ## Encoding -/

/-- R62 and R70: the map of all 256 tag values, with kind, fields and payload length. -/
def Obligations.TagDispatchIsTheOpcodeMap : Prop :=
  ∀ (b : Byte) (p : Vector Byte 4),
    (b.toNat ≤ 0x3F → chunkOf b p = .index (BitVec.ofNat 6 b.toNat) ∧ plenOf b = 0) ∧
    (0x40 ≤ b.toNat ∧ b.toNat ≤ 0x7F →
      chunkOf b p = .diff (BitVec.ofNat 2 (b.toNat / 16)) (BitVec.ofNat 2 (b.toNat / 4)) (BitVec.ofNat 2 b.toNat) ∧
      plenOf b = 0) ∧
    (0x80 ≤ b.toNat ∧ b.toNat ≤ 0xBF →
      chunkOf b p = .luma (BitVec.ofNat 6 (b.toNat - 0x80)) (BitVec.ofNat 4 (p[0].toNat / 16))
        (BitVec.ofNat 4 (p[0].toNat % 16)) ∧ plenOf b = 1) ∧
    (0xC0 ≤ b.toNat ∧ b.toNat ≤ 0xFD → ∃ n : BitVec 6, n.toNat = b.toNat - 0xC0 ∧ n.toNat ≤ 61 ∧
      chunkOf b p = .run n ∧ plenOf b = 0) ∧
    (b.toNat = 0xFE → chunkOf b p = .rgb p[0] p[1] p[2] ∧ plenOf b = 3) ∧
    (b.toNat = 0xFF → chunkOf b p = .rgba p[0] p[1] p[2] p[3] ∧ plenOf b = 4)

/-- R74 whole: the encodings of every chunk in range, of a header and of the trailer, the refusal of every term out of range,
and that decoding an encoding gives the chunk back, whatever bytes follow. -/
def Obligations.EncodingsAreTheTableAndDecodeBack : Prop :=
  (∀ r g b, encode (.rgb r g b) = some [0xFE, r, g, b]) ∧
  (∀ r g b a, encode (.rgba r g b a) = some [0xFF, r, g, b, a]) ∧
  (∀ i, encode (.index i) = some [BitVec.ofNat 8 i.toNat]) ∧
  (∀ dr dg db, encode (.diff dr dg db) =
    some [BitVec.ofNat 8 (0x40 + dr.toNat * 16 + dg.toNat * 4 + db.toNat)]) ∧
  (∀ dg drdg dbdg, encode (.luma dg drdg dbdg) =
    some [BitVec.ofNat 8 (0x80 + dg.toNat), BitVec.ofNat 8 (drdg.toNat * 16 + dbdg.toNat)]) ∧
  (∀ n : BitVec 6, n.toNat ≤ 61 → encode (.run n) = some [BitVec.ofNat 8 (0xC0 + n.toNat)]) ∧
  (∀ n : BitVec 6, 61 < n.toNat → encode (.run n) = none) ∧
  (∀ magic h, encodeHeader magic h =
    [magic[0], magic[1], magic[2], magic[3],
     BitVec.ofNat 8 (h.width.toNat / 2 ^ 24), BitVec.ofNat 8 (h.width.toNat / 2 ^ 16),
     BitVec.ofNat 8 (h.width.toNat / 2 ^ 8), BitVec.ofNat 8 h.width.toNat,
     BitVec.ofNat 8 (h.height.toNat / 2 ^ 24), BitVec.ofNat 8 (h.height.toNat / 2 ^ 16),
     BitVec.ofNat 8 (h.height.toNat / 2 ^ 8), BitVec.ofNat 8 h.height.toNat, h.channels, h.colorspace]) ∧
  encodeTrailer = [0, 0, 0, 0, 0, 0, 0, 1] ∧
  (∀ i e rest, encode i = some e → decode (e ++ rest) = .ok (i, rest))

/-- Derived from R62, R70 and R71: what decodes is what its encoding is, so each sequence of bytes has one meaning, and bytes
that start with a tag fail to decode only when payload bytes are missing. -/
def Obligations.DecodedBytesAreTheEncoding : Prop :=
  (∀ bs i rest, decode bs = .ok (i, rest) → ∃ e, encode i = some e ∧ bs = e ++ rest) ∧
  (∀ b0 rest, (∃ i r, decode (b0 :: rest) = .ok (i, r)) ↔ (plenOf b0).toNat ≤ rest.length)

/-- Derived from R63 to R68: words written out from R63 to R68 (the tags of TV-DISP) decode to their instructions. -/
def Obligations.WrittenWordsDecode : Prop :=
  decode [0xFE, 0x28, 0x32, 0x3C] = .ok (.rgb 40 50 60, []) ∧
  decode [0xFF, 0x0A, 0x14, 0x1E, 0xFF] = .ok (.rgba 10 20 30 255, []) ∧
  decode [0x3F, 0x11] = .ok (.index 63, [0x11]) ∧
  decode [0x5B] = .ok (.diff 1 2 3, []) ∧
  decode [0xA8, 0xA6] = .ok (.luma 40 10 6, []) ∧
  decode [0xFD] = .ok (.run 61, [])

/-! ## The chunks -/

/-- R91: the cache index function. -/
def Obligations.HashIsWeightedSumMod64 : Prop :=
  ∀ p : Pixel,
    (pixelHash p).toNat = (p.r.toNat * 3 + p.g.toNat * 5 + p.b.toNat * 7 + p.a.toNat * 11) % 64 ∧
    p.r.toNat * 3 + p.g.toNat * 5 + p.b.toNat * 7 + p.a.toNat * 11 ≤ 6630

/-- Derived from R92: a datapath of any width `k ≥ 6` gives the same index. -/
def Obligations.HashIsExactInAnyWidthFromSix : Prop :=
  ∀ (p : Pixel) (k : Nat), 6 ≤ k →
    (pixelHash p).toNat =
      ((p.r.toNat * 3 % 2 ^ k + p.g.toNat * 5 % 2 ^ k) % 2 ^ k +
        (p.b.toNat * 7 % 2 ^ k + p.a.toNat * 11 % 2 ^ k) % 2 ^ k) % 2 ^ k % 64

/-- Derived from R46, R47 and R48: a cache write replaces its slot, all four channels, whatever it held, and no other slot. -/
def Obligations.CacheWriteReplacesOneSlot : Prop :=
  (∀ i p s, cacheRead i (cacheWrite i p s) = p) ∧
  (∀ i j p s, j ≠ i → cacheRead j (cacheWrite i p s) = cacheRead j s) ∧
  (∀ i, cacheRead i State.reset = ⟨0, 0, 0, 0⟩)

/-- R88: RGB takes alpha from CUR and commits. Its bytes are the tag 0xFE, then r, g, b. -/
def Obligations.RgbSetsColourAndKeepsAlpha : Prop :=
  ∀ r g b s,
    (∀ rest, decode (0xFE :: r :: g :: b :: rest) = .ok (.rgb r g b, rest)) ∧
    exec (.rgb r g b) s = .next { s with
      cur := ⟨r, g, b, s.cur.a⟩
      cache := s.cache.set (pixelHash ⟨r, g, b, s.cur.a⟩).toNat ⟨r, g, b, s.cur.a⟩ (pixelHash ⟨r, g, b, s.cur.a⟩).isLt
      rep := 1 }

/-- R89: RGBA sets all four channels and commits. Its bytes are the tag 0xFF, then r, g, b, a. -/
def Obligations.RgbaSetsAllChannels : Prop :=
  ∀ r g b a s,
    (∀ rest, decode (0xFF :: r :: g :: b :: a :: rest) = .ok (.rgba r g b a, rest)) ∧
    exec (.rgba r g b a) s = .next { s with
      cur := ⟨r, g, b, a⟩
      cache := s.cache.set (pixelHash ⟨r, g, b, a⟩).toNat ⟨r, g, b, a⟩ (pixelHash ⟨r, g, b, a⟩).isLt
      rep := 1 }

/-- R90: INDEX returns the stored pixel, alpha included, and commits it to the slot its hash names. -/
def Obligations.IndexReturnsStoredPixel : Prop :=
  ∀ (i : BitVec 6) (s : State), ∃ new : Pixel, new = s.cache[i.toNat]'i.isLt ∧
    (∀ rest, decode (BitVec.ofNat 8 i.toNat :: rest) = .ok (.index i, rest)) ∧
    exec (.index i) s = .next { s with
      cur := new
      cache := s.cache.set (pixelHash new).toNat new (pixelHash new).isLt
      rep := 1 }

/-- R95: DIFF adds each raw field less 2 modulo 256, keeps alpha, and commits. -/
def Obligations.DiffAddsBiasedDeltas : Prop :=
  ∀ (dr dg db : BitVec 2) (s : State), ∃ new : Pixel,
    (new.r.toNat : Int) = (s.cur.r.toNat + dr.toNat - 2) % 256 ∧
    (new.g.toNat : Int) = (s.cur.g.toNat + dg.toNat - 2) % 256 ∧
    (new.b.toNat : Int) = (s.cur.b.toNat + db.toNat - 2) % 256 ∧
    new.a = s.cur.a ∧
    (∀ rest, decode (BitVec.ofNat 8 (0x40 + dr.toNat * 16 + dg.toNat * 4 + db.toNat) :: rest) =
      .ok (.diff dr dg db, rest)) ∧
    exec (.diff dr dg db) s = .next { s with
      cur := new
      cache := s.cache.set (pixelHash new).toNat new (pixelHash new).isLt
      rep := 1 }

/-- R96: LUMA adds the green delta `dg - 32` to all three colours, and to red and blue their fields less 8, modulo 256; it keeps
alpha and commits. -/
def Obligations.LumaAddsRelativeDeltas : Prop :=
  ∀ (dg : BitVec 6) (drdg dbdg : BitVec 4) (s : State), ∃ (vg : Int) (new : Pixel),
    vg = dg.toNat - 32 ∧
    (new.r.toNat : Int) = (s.cur.r.toNat + vg + drdg.toNat - 8) % 256 ∧
    (new.g.toNat : Int) = (s.cur.g.toNat + vg) % 256 ∧
    (new.b.toNat : Int) = (s.cur.b.toNat + vg + dbdg.toNat - 8) % 256 ∧
    new.a = s.cur.a ∧
    (∀ rest, decode (BitVec.ofNat 8 (0x80 + dg.toNat) :: BitVec.ofNat 8 (drdg.toNat * 16 + dbdg.toNat) :: rest) =
      .ok (.luma dg drdg dbdg, rest)) ∧
    exec (.luma dg drdg dbdg) s = .next { s with
      cur := new
      cache := s.cache.set (pixelHash new).toNat new (pixelHash new).isLt
      rep := 1 }

/-- R98, with R97's effect: RUN sets REP to `n + 1` and nothing else. Since it does not write the cache, an INDEX(53) after a
RUN from reset gives (0,0,0,0) (90_conflicts.md C2). -/
def Obligations.RunSetsRepOnly : Prop :=
  (∀ (n : BitVec 6) (s : State), n.toNat ≤ 61 →
    ∃ t, exec (.run n) s = .next t ∧ t.rep.toNat = n.toNat + 1 ∧ t = { s with rep := t.rep }) ∧
  (∀ (n : BitVec 6), n.toNat ≤ 61 → ∃ t u, exec (.run n) State.reset = .next t ∧ exec (.index 53) t = .next u ∧
    t.cur = ⟨0, 0, 0, 255⟩ ∧ u.cur = ⟨0, 0, 0, 0⟩)

/-- Derived from R68, R72 and R74: RUN(62) and RUN(63) are refused, have no encoding, and no bytes decode to them. That the
refusal is `noEncoding` is the model's choice, log entry 8. -/
def Obligations.RunOutOfRangeIsRefused : Prop :=
  ∀ n : BitVec 6, 61 < n.toNat →
    (∀ s, exec (.run n) s = .refused (.noEncoding "RUN")) ∧ encode (.run n) = none ∧
    ∀ bs rest, decode bs ≠ .ok (.run n, rest)

/-- R93, and the frame of every chunk: a non-RUN chunk changes CUR, the slot the new CUR hashes to, and REP, which is 1; a RUN
changes REP alone. Everything else in the state is unchanged: PHASE, the header registers, the counters, the tokenizer's and the
trailer's registers, ERR, the source, the consumer and the output. -/
def Obligations.ChunkChangesOnlyCurCacheSlotAndRep : Prop :=
  ∀ (i : Instr) (s t : State), exec i s = .next t →
    ((∀ n, i ≠ .run n) →
      t = { s with cur := t.cur, cache := s.cache.set (pixelHash t.cur).toNat t.cur (pixelHash t.cur).isLt, rep := 1 }) ∧
    (∀ n, i = .run n → t = { s with rep := t.rep })

/-- Derived from R88, R95, R96 and R97: alpha is never an arithmetic lane; only RGBA and INDEX can change it. -/
def Obligations.OnlyRgbaAndIndexChangeAlpha : Prop :=
  ∀ (i : Instr) (s t : State), exec i s = .next t → t.cur.a ≠ s.cur.a →
    (∃ r g b a, i = .rgba r g b a) ∨ ∃ k, i = .index k

/-- R94: an INDEX of a slot that holds (0,0,0,0) returns it and puts it into slot 0, whatever slot 0 held, and a later INDEX(0)
observes it. The pixel (0,0,0,64) is one that slot 0 can hold. -/
def Obligations.IndexOfClearSlotEvictsSlotZero : Prop :=
  pixelHash ⟨0, 0, 0, 64⟩ = 0 ∧
  ∀ (j : BitVec 6) (s : State), j ≠ 0 → cacheRead j s = ⟨0, 0, 0, 0⟩ →
    ∃ t u, exec (.index j) s = .next t ∧ t.cur = ⟨0, 0, 0, 0⟩ ∧ cacheRead 0 t = ⟨0, 0, 0, 0⟩ ∧
      exec (.index 0) t = .next u ∧ u.cur = ⟨0, 0, 0, 0⟩

/-- R127, and R90's last corner case: the commit of a chunk is visible to an INDEX right after it. An INDEX of the slot just
written emits CUR again (REP is 1) and changes nothing. -/
def Obligations.CommitIsVisibleToNextIndex : Prop :=
  ∀ (i : Instr) (s t : State), (∀ n, i ≠ .run n) → exec i s = .next t →
    cacheRead (pixelHash t.cur) t = t.cur ∧ exec (.index (pixelHash t.cur)) t = .next t ∧ t.rep = 1

/-- R129: within an INDEX, reading after the commit's write gives the value read before it, so either order is the same. -/
def Obligations.IndexReadAndWriteCommute : Prop :=
  ∀ (i : BitVec 6) (s : State) (new : Pixel), new = cacheRead i s →
    cacheRead i (cacheWrite (pixelHash new) new s) = new ∧
    exec (.index i) s = .next (commit (cacheRead i (cacheWrite (pixelHash new) new s)) s)

/-! ## The step -/

/-- Derived from R83 to R87: where the byte about to be read completes a chunk whose bytes decode to `i`, the step is exec of
`i` in the state after that read, and then PHASE is EMIT (R86). -/
def Obligations.StepRunsDecodedInstruction : Prop :=
  ∀ (s : State) (v : Byte) (rest : List Byte) (i : Instr),
    s.phase = .tag ∨ (s.phase = .payload ∧ s.plen = plenOf s.tag) → enabled s = true →
    s.source.pending = v :: rest → decode (s.chunkWith v) = .ok (i, []) →
    ∃ t, exec i (s.chunkRead v rest) = .next t ∧ step s = .next { t with phase := .emit }

/-- Derived from R83 and R84: a tag that needs payload bytes is latched with the number it needs, and a payload byte before the
last is stored; nothing else changes. -/
def Obligations.TokenizerLatchesBytes : Prop :=
  ∀ (s : State) (v : Byte) (rest : List Byte), s.source.pending = v :: rest →
    (s.phase = .tag → s.emitted.toNat < s.total.toNat → 0x80 ≤ v.toNat ∧ v.toNat ≤ 0xBF ∨ 0xFE ≤ v.toNat →
      step s = .next { s with
        source := { s.source with pending := rest }
        bpos := s.bpos + 1
        tag := v
        plen := if v = 0xFE then 3 else if v = 0xFF then 4 else 1
        pcnt := 0
        phase := .payload }) ∧
    (s.phase = .payload → s.pcnt.toNat + 1 < s.plen.toNat → s.plen.toNat ≤ 4 →
      step s = .next { s with
        source := { s.source with pending := rest }
        bpos := s.bpos + 1
        pbuf := s.pbuf.setIfInBounds s.pcnt.toNat v
        pcnt := s.pcnt + 1 })

/-- R87, with R86: from a chunk boundary a chunk takes exactly as many steps as it has bytes and consumes exactly those; the
step of its last byte applies it; nothing is emitted meanwhile. -/
def Obligations.ChunkTakesItsBytesAndIsApplied : Prop :=
  ∀ (i : Instr) (e rest : List Byte) (s t : State),
    encode i = some e → s.phase = .tag → s.emitted.toNat < s.total.toNat → s.source.pending = e ++ rest →
    exec i s = .next t →
    ∃ u, reaches e.length s u ∧ u.phase = .emit ∧ u.cur = t.cur ∧ u.cache = t.cache ∧ u.rep = t.rep ∧
      u.bpos = s.bpos + e.length ∧ u.source = { s.source with pending := rest } ∧ u.emitted = s.emitted ∧
      u.out = s.out ∧ u.err = s.err ∧ u.total = s.total ∧ headerOf u = headerOf s

/-- R109: a source that ends at a tag or payload byte aborts with TRUNCATED, and nothing else changes: the chunk is not
applied and the pixels emitted stay emitted. -/
def Obligations.EndInsideChunksIsTruncated : Prop :=
  ∀ s : State, s.phase = .tag ∨ s.phase = .payload → enabled s = true →
    s.source.pending = [] → s.source.ended = true →
    step s = .next { s with err := .truncated, phase := .error }

/-- R76, R77 and R78: the header reader's step. `End` raises HEADER; a byte before the fourteenth is stored and not looked at;
the fourteenth loads the four header registers, big-endian, and accepts the header or raises HEADER. -/
def Obligations.HeaderReaderStep : Prop :=
  ∀ s : State, s.phase = .hdr → s.hcnt.toNat < 14 →
    (s.source.pending = [] → s.source.ended = true →
      step s = .next { s with err := .header, phase := .error }) ∧
    (∀ v rest, s.source.pending = v :: rest → s.hcnt.toNat < 13 →
      step s = .next { s with
        source := { s.source with pending := rest }
        bpos := s.bpos + 1
        hbuf := s.hbuf.setIfInBounds s.hcnt.toNat v
        hcnt := s.hcnt + 1 }) ∧
    (∀ v rest, s.source.pending = v :: rest → s.hcnt.toNat = 13 →
      ∃ t, step s = .next t ∧ t.hbuf = s.hbuf.set 13 v ∧ t.hcnt = 14 ∧ t.bpos = s.bpos + 1 ∧
        t.source = { s.source with pending := rest } ∧
        t.width.toNat = t.hbuf[4].toNat * 2 ^ 24 + t.hbuf[5].toNat * 2 ^ 16 + t.hbuf[6].toNat * 2 ^ 8 + t.hbuf[7].toNat ∧
        t.height.toNat =
          t.hbuf[8].toNat * 2 ^ 24 + t.hbuf[9].toNat * 2 ^ 16 + t.hbuf[10].toNat * 2 ^ 8 + t.hbuf[11].toNat ∧
        t.channels = t.hbuf[12] ∧ t.colorspace = v ∧
        (if t.hbuf.toList.take 4 = Config.magic.toList ∧ t.width ≠ 0 ∧ t.height ≠ 0 then
          t.phase = .tag ∧ t.hdrValid = true ∧ t.total.toNat = t.width.toNat * t.height.toNat ∧ t.err = s.err
        else t.phase = .error ∧ t.err = .header ∧ t.hdrValid = s.hdrValid ∧ t.total = s.total) ∧
        t = { s with
          hbuf := t.hbuf, hcnt := t.hcnt, bpos := t.bpos, source := t.source, width := t.width, height := t.height,
          channels := t.channels, colorspace := t.colorspace, phase := t.phase, err := t.err, hdrValid := t.hdrValid,
          total := t.total })

/-- R80: in HDR no pixel is emitted, and CUR and CACHE are not touched; when the header is accepted, the next byte to read, the
first chunk's, is the one at offset 14. -/
def Obligations.HeaderPhaseTouchesNoPixel : Prop :=
  ∀ s t : State, s.phase = .hdr → step s = .next t →
    t.emitted = s.emitted ∧ t.out = s.out ∧ t.cur = s.cur ∧ t.cache = s.cache ∧ (s.Inv → t.phase = .tag → t.bpos = 14)

/-- Derived from R74, R80 and R81: a header with the block's magic and a nonzero size, written as R74 writes it, is accepted
after fourteen steps from reset, whatever its channels and colorspace, with the registers it says, no pixel, and the source at
offset 14. -/
def Obligations.EncodedHeaderIsAccepted : Prop :=
  ∀ (h : Header) (rest : List Byte), h.width ≠ 0 → h.height ≠ 0 →
    ∃ t, reaches 14 (startOn (encodeHeader Config.magic h ++ rest)) t ∧ t.phase = .tag ∧ headerOf t = h ∧
      t.hdrValid = true ∧ t.total.toNat = h.width.toNat * h.height.toNat ∧ t.bpos = 14 ∧ t.err = .none ∧
      t.source.pending = rest ∧ t.cur = ⟨0, 0, 0, 255⟩ ∧ (∀ i, cacheRead i t = ⟨0, 0, 0, 0⟩) ∧ t.out = []

/-- R108: every input whose header is short, has another magic, or a zero width or height ends in ERROR with HEADER after at
most fourteen steps, with BPOS the number of header bytes received and no pixel. -/
def Obligations.BadHeaderIsHeaderError : Prop :=
  ∀ bs : List Byte,
    bs.length < 14 ∨ bs.take 4 ≠ Config.magic.toList ∨ (bs.drop 4).take 4 = [0, 0, 0, 0] ∨
      (bs.drop 8).take 4 = [0, 0, 0, 0] →
    ∃ t, reaches 14 (startOn bs) t ∧ t.phase = .error ∧ t.err = .header ∧ t.bpos = min 14 bs.length ∧ t.out = [] ∧
      t.emitted = 0 ∧ t.hdrValid = false

/-- Derived from R99, the emit step: CUR goes out as pixel number EMITTED; after the last pixel the repeats left are discarded
and the trailer follows; after the last repeat the next tag follows; otherwise the block stays in EMIT. The consumer's demand,
and that `out` holds what it has taken, are the model's own fields (log entries 9, 10). That the step into TRAILER writes TCNT
is R99's pseudocode against R33's matrix (log entry 11). -/
def Obligations.EmitStepSendsCur : Prop :=
  ∀ (s : State) (d : Demand), s.phase = .emit → 1 ≤ s.rep.toNat → s.emitted.toNat < s.total.toNat →
    (s.demand = .always ∧ d = .always) ∨ (∃ n, s.demand = .count (n + 1) ∧ d = .count n) →
    ∃ t, step s = .next t ∧ t.emitted.toNat = s.emitted.toNat + 1 ∧ t.out = s.out ++ [s.cur] ∧ t.demand = d ∧
      (if s.emitted.toNat + 1 = s.total.toNat then t.phase = .trailer ∧ t.rep = 0 ∧ t.tcnt = 0
       else if s.rep.toNat = 1 then t.phase = .tag ∧ t.rep = 0 ∧ t.tcnt = s.tcnt
       else t.phase = .emit ∧ t.rep.toNat = s.rep.toNat - 1 ∧ t.tcnt = s.tcnt) ∧
      t = { s with emitted := t.emitted, out := t.out, demand := t.demand, phase := t.phase, rep := t.rep,
                   tcnt := t.tcnt }

/-- Derived from R99, R100 and R130: from EMIT, with a consumer that takes every pixel, the chunk's pixels go out one after
the other with no byte read between them, stopping at TOTAL; then comes the trailer at TOTAL, and the next tag before it. -/
def Obligations.ChunkPixelsGoOutTogether : Prop :=
  ∀ (s : State) (k : Nat), s.phase = .emit → 1 ≤ s.rep.toNat → s.emitted.toNat < s.total.toNat → s.demand = .always →
    k = min s.rep.toNat (s.total.toNat - s.emitted.toNat) →
    ∃ t, reaches k s t ∧ t.out = s.out ++ List.replicate k s.cur ∧ t.emitted.toNat = s.emitted.toNat + k ∧
      t.phase = (if s.total.toNat ≤ s.emitted.toNat + s.rep.toNat then .trailer else .tag) ∧ t.rep = 0 ∧
      t.source = s.source ∧ t.bpos = s.bpos ∧ t.cur = s.cur ∧ t.cache = s.cache ∧ t.err = s.err

/-- R97: a RUN(n) at a chunk boundary emits the pre-run CUR `n + 1` times, or up to TOTAL without error, and leaves CUR and
CACHE alone. -/
def Obligations.RunEmitsCopiesOfCur : Prop :=
  ∀ (s : State) (n : BitVec 6) (rest : List Byte) (k : Nat), s.phase = .tag → s.emitted.toNat < s.total.toNat →
    s.demand = .always → n.toNat ≤ 61 → s.source.pending = BitVec.ofNat 8 (0xC0 + n.toNat) :: rest →
    k = min (n.toNat + 1) (s.total.toNat - s.emitted.toNat) →
    ∃ t, reaches (1 + k) s t ∧ t.out = s.out ++ List.replicate k s.cur ∧ t.cur = s.cur ∧ t.cache = s.cache ∧
      t.err = s.err ∧ t.source.pending = rest ∧ t.bpos = s.bpos + 1 ∧
      t.phase = (if s.total.toNat ≤ s.emitted.toNat + n.toNat + 1 then .trailer else .tag)

/-- R101: the trailer check step. -/
def Obligations.TrailerStepComparesOneByte : Prop :=
  ∀ s : State, s.phase = .trailer → s.tcnt.toNat ≤ 8 →
    (s.source.pending = [] → s.source.ended = true →
      step s = .next (if s.tcnt.toNat = 8 then { s with phase := .done }
        else { s with err := .trailerMismatch, phase := .error })) ∧
    (∀ v rest, s.source.pending = v :: rest →
      step s = .next (if s.tcnt.toNat < 8 ∧ v = (if s.tcnt.toNat = 7 then 0x01 else 0x00) then
          { s with source := { s.source with pending := rest }, bpos := s.bpos + 1, tcnt := s.tcnt + 1 }
        else { s with
          source := { s.source with pending := rest }, bpos := s.bpos + 1, err := .trailerMismatch, phase := .error }))

/-- R102: the outcomes of the trailer check, by the bytes `bs` left after the last chunk: DONE exactly for the trailer, and
TRAILER_MISMATCH otherwise, found at the first different byte, at `End` after a matching prefix, or at the ninth byte. -/
def Obligations.TrailerOutcomes : Prop :=
  ∀ (s : State) (bs : List Byte), s.phase = .trailer → s.tcnt = 0 → s.source = ⟨bs, true⟩ →
    ∃ t, reaches 9 s t ∧ t.out = s.out ∧
      (bs = [0, 0, 0, 0, 0, 0, 0, 1] → t.phase = .done ∧ t.err = s.err ∧ t.bpos = s.bpos + 8) ∧
      (bs ≠ [0, 0, 0, 0, 0, 0, 0, 1] → t.phase = .error ∧ t.err = .trailerMismatch) ∧
      (bs.length < 8 → bs = ([0, 0, 0, 0, 0, 0, 0, 1] : List Byte).take bs.length → t.bpos = s.bpos + bs.length) ∧
      (∀ (j : Nat) (v : Byte), j < 8 → bs.take j = ([0, 0, 0, 0, 0, 0, 0, 1] : List Byte).take j → bs[j]? = some v →
        ([0, 0, 0, 0, 0, 0, 0, 1] : List Byte)[j]? ≠ some v → t.bpos = s.bpos + j + 1) ∧
      (8 < bs.length → bs.take 8 = [0, 0, 0, 0, 0, 0, 0, 1] → t.bpos = s.bpos + 9)

/-! ## The whole machine -/

/-- Derived from R112, R76 and R77: a step that aborts writes ERR and PHASE and has no effect besides the byte it read, except
that the fourteenth header byte is stored in HBUF (R76) and the header registers are loaded before the checks (R77). -/
def Obligations.AbortIsPrecise : Prop :=
  ∀ s t : State, step s = .next t → s.phase ≠ .error → t.phase = .error → t.err ≠ .none ∧
    ((s.source.pending = [] ∧ t = { s with err := t.err, phase := .error }) ∨
     (∃ v rest, s.source.pending = v :: rest ∧ s.phase = .trailer ∧
        t = { consumeByte rest s with err := t.err, phase := .error }) ∨
     (∃ v rest, s.source.pending = v :: rest ∧ s.phase = .hdr ∧ s.hcnt = 13 ∧
        t = { loadHeader (storeHeaderByte v (consumeByte rest s)) with err := .header, phase := .error }))

/-- Derived from R103, R114, R117 and R126: DONE and ERROR last until reset. Nothing is read or emitted, ERR is not
overwritten, and STATUS stays. That a step there answers the same state is the model's choice, log entry 6. -/
def Obligations.DoneAndErrorLast : Prop :=
  ∀ (s : State) (k : Nat), s.final → reaches k s s ∧ status s ≠ .busy

/-- Derived from R41 and R50: while the source has no answer or the consumer does not take the pixel, nothing changes. That the
step then answers the same state is the model's choice, log entry 5. -/
def Obligations.WaitingChangesNothing : Prop :=
  ∀ s : State, enabled s = true →
    ((s.phase = .hdr ∨ s.phase = .tag ∨ s.phase = .payload ∨ s.phase = .trailer) ∧ s.source = ⟨[], false⟩) ∨
      (s.phase = .emit ∧ s.demand = .count 0) →
    step s = .next s

/-- Derived from R25, R38, R39, R40, R50 and R121: each step that changes the state consumes exactly the next byte, or emits
exactly CUR, or has read `End` and goes to DONE or ERROR. BPOS, the source, EMITTED and the output change in no other way. -/
def Obligations.StepReadsOneByteOrEmitsOnePixel : Prop :=
  ∀ s t : State, step s = .next t →
    t = s ∨
    (t.bpos = s.bpos + 1 ∧ (∃ v, s.source.pending = v :: t.source.pending) ∧ t.source.ended = s.source.ended ∧
      t.emitted = s.emitted ∧ t.out = s.out ∧ t.demand = s.demand) ∨
    (s.phase = .emit ∧ t.bpos = s.bpos ∧ t.source = s.source ∧ t.emitted = s.emitted + 1 ∧ t.out = s.out ++ [s.cur]) ∨
    (s.source.pending = [] ∧ s.source.ended = true ∧ t.final ∧ t.bpos = s.bpos ∧ t.source = s.source ∧
      t.emitted = s.emitted ∧ t.out = s.out ∧ t.demand = s.demand)

/-- Derived from R33's write columns: in each phase a step writes no register outside its columns. The `apply chunk` column
joins the tag and the payload columns, and `raise` every column. -/
def Obligations.StepWritesOnlyItsPhaseRegisters : Prop :=
  ∀ s t : State, step s = .next t →
    (s.phase ≠ .tag → s.phase ≠ .payload → t.cur = s.cur ∧ t.cache = s.cache) ∧
    (s.phase ≠ .hdr → headerOf t = headerOf s ∧ t.hdrValid = s.hdrValid ∧ t.total = s.total ∧ t.hcnt = s.hcnt ∧
      t.hbuf = s.hbuf) ∧
    (s.phase ≠ .emit → t.emitted = s.emitted) ∧
    (s.phase = .emit → t.bpos = s.bpos) ∧
    (s.phase ≠ .tag → t.tag = s.tag ∧ t.plen = s.plen) ∧
    (s.phase ≠ .tag → s.phase ≠ .payload → t.pcnt = s.pcnt) ∧
    (s.phase ≠ .payload → t.pbuf = s.pbuf) ∧
    (s.phase ≠ .tag → s.phase ≠ .payload → s.phase ≠ .emit → t.rep = s.rep) ∧
    (s.Inv → s.phase ≠ .trailer → t.tcnt = s.tcnt) ∧
    (t.phase ≠ .error → t.err = s.err)

/-- Derived from R21, R22 and R23: once the header is valid, the header registers, HDR_VALID and TOTAL do not change until
reset. -/
def Obligations.HeaderIsImmutableOnceValid : Prop :=
  ∀ (s t : State) (k : Nat), s.Inv → s.hdrValid = true → reaches k s t →
    headerOf t = headerOf s ∧ t.hdrValid = true ∧ t.total = s.total

/-- R111: no step raises UNRECOGNIZED_CHUNK, in any state. -/
def Obligations.UnrecognizedChunkIsNeverRaised : Prop :=
  ∀ s t : State, step s = .next t → s.err ≠ .unrecognizedChunk → t.err ≠ .unrecognizedChunk

/-- Derived from R40 and R56: no read-ahead. What the source holds after the next byte has no influence on a step, and the
step leaves it as it is. -/
def Obligations.StepDoesNotReadAhead : Prop :=
  ∀ (s t : State) (extra : List Byte), s.source.pending ≠ [] → step s = .next t →
    step { s with source := ⟨s.source.pending ++ extra, s.source.ended⟩ } =
      .next { t with source := ⟨t.source.pending ++ extra, t.source.ended⟩ }

/-- R79: the channels and colorspace bytes never matter. Headers that differ only in them lead to states that differ only in
them, and such states step to such states, so neither value raises an error and no rule reads them. -/
def Obligations.ChannelsAndColorspaceNeverMatter : Prop :=
  (∀ (magic : Magic) (h : Header) (c sp : Byte) (rest : List Byte), ∃ t t',
    reaches 14 (startOn (encodeHeader magic h ++ rest)) t ∧
    reaches 14 (startOn (encodeHeader magic { h with channels := c, colorspace := sp } ++ rest)) t' ∧
    t.dropMeta = t'.dropMeta ∧ (t.channels = h.channels ∧ t.colorspace = h.colorspace) ∧
    (t'.channels = c ∧ t'.colorspace = sp)) ∧
  (∀ s s' t : State, s.dropMeta = s'.dropMeta → step s = .next t →
    ∃ t', step s' = .next t' ∧ t.dropMeta = t'.dropMeta)

/-- Derived from R34 and R27: no rule reads a slot that holds no value. Legal states that agree on every written slot step to
states that do. So the zeros the model holds in such slots after reset (log entry 4) are never seen. -/
def Obligations.UnwrittenSlotsAreNeverRead : Prop :=
  ∀ s s' t : State, s.Inv → s.sameWritten s' → step s = .next t → ∃ t', step s' = .next t' ∧ t.sameWritten t'

/-- Derived from R30 and R31: STATUS and its codes, from PHASE; the codes of ERR. -/
def Obligations.StatusAndErrCodes : Prop :=
  (∀ s : State, statusCode (status s) =
    (if s.phase = .done then 1 else if s.phase = .error then 2 else 0)) ∧
  (errCode .none = 0 ∧ errCode .header = 1 ∧ errCode .truncated = 2 ∧ errCode .trailerMismatch = 3 ∧
    errCode .unrecognizedChunk = 4)

/-- Derived from R35 and R123, where they give a value, and R126: reset from any state, with any source and consumer, leaves
every such register at its reset value, and nothing of the state before survives (R126). The fields `source`, `demand` and
`out` are the model's own: their values are its choice (log entries 3, 9, 10). -/
def Obligations.ResetLeavesTheStatedValues : Prop :=
  ∀ (src : Source) (d : Demand) (before : State) (s : State),
    s = State.hostReset src d before ∨ (s = State.reset ∧ src = s.source ∧ d = s.demand) →
    s.phase = .hdr ∧ s.cur = ⟨0, 0, 0, 255⟩ ∧ (∀ i, cacheRead i s = ⟨0, 0, 0, 0⟩) ∧ s.width = 0 ∧ s.height = 0 ∧
    s.channels = 0 ∧ s.colorspace = 0 ∧ s.hdrValid = false ∧ s.total = 0 ∧ s.emitted = 0 ∧ s.bpos = 0 ∧ s.hcnt = 0 ∧
    s.plen = 0 ∧ s.pcnt = 0 ∧ s.rep = 0 ∧ s.tcnt = 0 ∧ s.err = .none ∧ s.source = src ∧ s.demand = d ∧ s.out = []

/-- Derived from R36, at reset: the invariants hold, whatever source and consumer the host connects. -/
def Obligations.InvariantHoldsAfterReset : Prop :=
  ∀ (src : Source) (d : Demand) (before : State), (State.hostReset src d before).Inv ∧ State.reset.Inv

/-- Derived from R36: every step keeps the invariants, from every state that meets them. -/
def Obligations.EveryStepKeepsTheInvariant : Prop :=
  ∀ s t : State, s.Inv → step s = .next t → t.Inv

/-- R36, its nine items in the spec's words, for every state that steps and the host's operations reach from a reset. Item 9
speaks of the states in which a non-RUN chunk has been applied since that reset (`Committed`); right after reset it fails, at
slot 53. -/
def Obligations.ReachableStatesMeetTheNineItems : Prop :=
  (∀ s : State, Reachable s →
    (s.phase ∈ [Phase.tag, .payload, .emit, .trailer, .done] → s.hdrValid = true ∧ 1 ≤ s.total.toNat) ∧
    (s.hdrValid = true → s.emitted.toNat ≤ s.total.toNat) ∧
    (s.phase = .tag → s.emitted.toNat < s.total.toNat ∧ s.rep = 0) ∧
    (s.phase = .emit → 1 ≤ s.rep.toNat ∧ s.rep.toNat ≤ 62 ∧ s.emitted.toNat < s.total.toNat) ∧
    (s.phase = .payload → s.pcnt.toNat < s.plen.toNat) ∧
    (s.phase = .trailer → s.emitted = s.total ∧ s.tcnt.toNat ≤ 8) ∧
    (s.phase = .done → s.emitted = s.total ∧ s.tcnt = 8 ∧ s.err = .none) ∧
    (s.phase = .error ↔ s.err ≠ .none)) ∧
  (∀ s : State, Committed s → cacheRead (pixelHash s.cur) s = s.cur) ∧
  (∀ (src : Source) (d : Demand) (before s : State), s = State.hostReset src d before →
    pixelHash s.cur = 53 ∧ cacheRead 53 s = ⟨0, 0, 0, 0⟩ ∧ cacheRead (pixelHash s.cur) s ≠ s.cur)

/-- Derived from R36 and R103: in a legal state the step is enabled, and it neither faults nor refuses. R103 enables no step in
DONE and ERROR: that `enabled` holds there, and that the step answers the same state, is the model's choice, log entry 6. That a
step which waits answers the same state is its choice too, log entry 5. -/
def Obligations.LegalStatesStepSafely : Prop :=
  ∀ s : State, s.Inv → enabled s = true ∧ Safe (step s)

/-- Derived from R121 and R132: a legal state whose source and consumer keep answering reaches DONE or ERROR within
`stepsLeft` steps. -/
def Obligations.AnsweredDecodesEnd : Prop :=
  ∀ s : State, s.Inv → s.answered → ∃ t, reaches s.stepsLeft s t ∧ t.final

/-- Derived from R121, its bounds: on every input a decode ends within `BPOS_final + TOTAL + 1` steps, and `BPOS_final <= 14 +
5*TOTAL + 9`. -/
def Obligations.DecodeEndsWithinTheStatedBound : Prop :=
  ∀ bs : List Byte, ∃ (k : Nat) (t : State), reaches k (startOn bs) t ∧ t.final ∧
    k ≤ t.bpos + t.total.toNat + 1 ∧ t.bpos ≤ 14 + 5 * t.total.toNat + 9

/-- R104: on every input, the machine ends as the reference function `decode(B)` says: the pixels, PHASE, ERR, the header
registers and BPOS. -/
def Obligations.MachineAgreesWithReference : Prop :=
  ∀ bs : List Byte, ∃ t : State, reaches (stepBound bs.length) (startOn bs) t ∧ t.final ∧
    (Reference.decode Config.magic bs).shownBy t

/-- R105: a decoded image exists only in DONE, and has exactly `width*height` pixels; a decode that ends in ERROR has none. -/
def Obligations.ImageExistsOnlyOnSuccess : Prop :=
  ∀ s : State, s.Inv →
    (∀ img, imageOf s = some img → s.phase = .done ∧ img.header = headerOf s ∧ img.pixels = s.out ∧
      img.pixels.length = img.header.width.toNat * img.header.height.toNat) ∧
    (s.phase = .done → ∃ img, imageOf s = some img) ∧
    (s.phase = .error → imageOf s = none)

/-- R51: pixel number `k` of an image is at column `k mod WIDTH` and row `k div WIDTH`. -/
def Obligations.ImageIsRowMajor : Prop :=
  ∀ (s : State) (img : DecodedImage) (k : Nat), s.Inv → imageOf s = some img → k < s.total.toNat →
    ∃ p, s.out[k]? = some p ∧ img.pixelAt (k % s.width.toNat) (k / s.width.toNat) = some p ∧
      k / s.width.toNat < s.height.toNat

/-- Derived from R106: `next_pixel` answers the pixel it has just emitted, or `EndOfImage` in DONE, or the error in ERROR; and
the last two answers repeat and read nothing. -/
def Obligations.NextPixelAnswers : Prop :=
  ∀ (magic : Magic) (k : Nat) (s t : State) (a : Pull), nextPixel magic k s = some (a, t) →
    (∀ p, a = .pixel p → t.out = s.out ++ [p]) ∧
    (a = .endOfImage → t.phase = .done ∧ t.out = s.out) ∧
    (∀ e, a = .error e → t.phase = .error ∧ t.err = e ∧ t.out = s.out) ∧
    ((∀ p, a ≠ .pixel p) → ∀ j, ∃ u, nextPixel magic j t = some (a, u) ∧ u.source = t.source ∧ u.bpos = t.bpos)

/-- Derived from R83, R84 and R86: the very next step after a word of the opcode table is placed runs that word's instruction,
from reset. How the word comes to stand there is the model's choice, log entry 13. -/
def Obligations.PlacedWordRunsFirst : Prop :=
  ∀ (nbits w : Nat) (i : Instr), decodeTableWord nbits w = some i →
    ∃ t u, step (State.reset.withFetchWord nbits w) = .next t ∧ exec i State.reset = .next u ∧
      t.phase = .emit ∧ t.cur = u.cur ∧ t.cache = u.cache ∧ t.rep = u.rep ∧ t.source = State.reset.source
end

