-- ==== Sys2Proof/Laws/Decode.lean ====
section
/-! SUPPORT. What the tag decides: the payload length and the chunk (30_encoding.md R61, R62, 41_tokenizer.md R85). -/
namespace Sys2Proof

/-- 30_encoding.md R62: the four lengths, each with the tags that have it. -/
theorem plenOf_cases (b : Byte) :
    (b = 0xFE ∧ plenOf b = 3) ∨ (b = 0xFF ∧ plenOf b = 4) ∨
    (b ≠ 0xFE ∧ b ≠ 0xFF ∧ b.extractLsb' 6 2 = 0b10#2 ∧ plenOf b = 1) ∨
    (b ≠ 0xFE ∧ b ≠ 0xFF ∧ b.extractLsb' 6 2 ≠ 0b10#2 ∧ plenOf b = 0) := by
  unfold plenOf
  split
  · simp_all
  · split
    · simp_all
    · split <;> simp_all

theorem plenOf_le (b : Byte) : (plenOf b).toNat ≤ 4 := by
  obtain ⟨-, h⟩ | ⟨-, h⟩ | ⟨-, -, -, h⟩ | ⟨-, -, -, h⟩ := plenOf_cases b <;> rw [h] <;> decide

/-- `chunkOf` reads only the payload slots the tag needs (10_state.md R34). -/
theorem chunkOf_congr {b : Byte} {p q : Vector Byte 4}
    (h : ∀ k : Fin 4, k.val < (plenOf b).toNat → p[k] = q[k]) : chunkOf b p = chunkOf b q := by
  obtain ⟨rfl, hp⟩ | ⟨rfl, hp⟩ | ⟨h1, h2, h3, hp⟩ | ⟨h1, h2, h3, hp⟩ := plenOf_cases b
  · rw [hp] at h
    have h0 := h 0 (by decide); have h1 := h 1 (by decide); have h2 := h 2 (by decide)
    simp_all [chunkOf]
  · rw [hp] at h
    have h0 := h 0 (by decide); have h1 := h 1 (by decide); have h2 := h 2 (by decide); have h3 := h 3 (by decide)
    simp_all [chunkOf]
  · rw [hp] at h
    have h0 := h 0 (by decide)
    simp_all [chunkOf]
  · simp only [chunkOf, h1, h2, h3, if_false]

/-- A 6-bit field of a byte whose top bits are neither INDEX's, DIFF's nor LUMA's and which is neither full-byte tag
is at most 61 (30_encoding.md R68). -/
theorem runField_le {b : Byte} (h1 : b ≠ 0xFE) (h2 : b ≠ 0xFF) (h3 : b.extractLsb' 6 2 ≠ 0b00#2)
    (h4 : b.extractLsb' 6 2 ≠ 0b01#2) (h5 : b.extractLsb' 6 2 ≠ 0b10#2) : (b.extractLsb' 0 6).toNat ≤ 61 := by
  have e1 : b.toNat ≠ 254 := fun h => h1 (BitVec.eq_of_toNat_eq h)
  have e2 : b.toNat ≠ 255 := fun h => h2 (BitVec.eq_of_toNat_eq h)
  simp only [ne_eq, BitVec.toNat_eq, BitVec.extractLsb'_toNat, Nat.shiftRight_eq_div_pow, BitVec.toNat_ofNat] at *
  have := b.isLt
  omega

/-- Every chunk the tokenizer builds is well formed (30_encoding.md R71). -/
theorem chunkOf_wellFormed (b : Byte) (p : Vector Byte 4) : (chunkOf b p).wellFormed = true := by
  unfold chunkOf
  split
  · rfl
  split
  · rfl
  split
  · rfl
  split
  · rfl
  split
  · rfl
  · simpa [Instr.wellFormed] using runField_le ‹_› ‹_› ‹_› ‹_› ‹_›

end Sys2Proof
end

