-- ==== Sys2Proof/Laws/Operands.lean ====
section
/-! SUPPORT. The operand forms as numbers. -/
namespace Sys2Proof.Machine

/-- 00_scope.md R11. -/
theorem addW_toNat (x y : Byte) : (addW x y).toNat = (x.toNat + y.toNat) % 256 := by
  simp [addW]

/-- 00_scope.md R11. -/
theorem subW_toNat (x y : Byte) : (subW x y).toNat = (x.toNat + (256 - y.toNat)) % 256 := by
  simp [subW]
  omega

/-- 44_delta_chunks.md R96: adding `vg` modulo 256 is adding `dg + 224`. -/
theorem lumaGreen_toNat (dg : BitVec 6) : (lumaGreen dg).toNat = (dg.toNat + 224) % 256 := by
  have := dg.isLt
  rw [lumaGreen, subW_toNat]
  simp

/-- 30_encoding.md R69: for `n ≤ 61` the count does not wrap. -/
theorem runCount_toNat {n : BitVec 6} (h : n.toNat ≤ 61) : (runCount n).toNat = n.toNat + 1 := by
  simp [runCount]
  omega

/-- 20_memory.md R43. -/
theorem be32_toNat (b3 b2 b1 b0 : Byte) :
    (be32 b3 b2 b1 b0).toNat = b3.toNat * 2 ^ 24 + b2.toNat * 2 ^ 16 + b1.toNat * 2 ^ 8 + b0.toNat := by
  have h3 := b3.isLt
  rw [be32, BitVec.toNat_append, ← Nat.shiftLeft_add_eq_or_of_lt b0.isLt, BitVec.toNat_append,
    ← Nat.shiftLeft_add_eq_or_of_lt b1.isLt, BitVec.toNat_append, ← Nat.shiftLeft_add_eq_or_of_lt b2.isLt]
  simp only [Nat.shiftLeft_eq]
  omega

end Sys2Proof.Machine
end

