-- ==== Sys2Proof/Laws/State.lean ====
section
/-! SUPPORT. One lemma per field per named update of the state, each true by unfolding the update once. -/
namespace Sys2Proof.Machine

@[simp] theorem consumeByte_phase (rest : List Byte) (s : State) : (consumeByte rest s).phase = s.phase := rfl
@[simp] theorem consumeByte_cur (rest : List Byte) (s : State) : (consumeByte rest s).cur = s.cur := rfl
@[simp] theorem consumeByte_cache (rest : List Byte) (s : State) : (consumeByte rest s).cache = s.cache := rfl
@[simp] theorem consumeByte_width (rest : List Byte) (s : State) : (consumeByte rest s).width = s.width := rfl
@[simp] theorem consumeByte_height (rest : List Byte) (s : State) : (consumeByte rest s).height = s.height := rfl
@[simp] theorem consumeByte_channels (rest : List Byte) (s : State) : (consumeByte rest s).channels = s.channels := rfl
@[simp] theorem consumeByte_colorspace (rest : List Byte) (s : State) : (consumeByte rest s).colorspace = s.colorspace := rfl
@[simp] theorem consumeByte_hdrValid (rest : List Byte) (s : State) : (consumeByte rest s).hdrValid = s.hdrValid := rfl
@[simp] theorem consumeByte_total (rest : List Byte) (s : State) : (consumeByte rest s).total = s.total := rfl
@[simp] theorem consumeByte_emitted (rest : List Byte) (s : State) : (consumeByte rest s).emitted = s.emitted := rfl
@[simp] theorem consumeByte_bpos (rest : List Byte) (s : State) : (consumeByte rest s).bpos = s.bpos + 1 := rfl
@[simp] theorem consumeByte_hcnt (rest : List Byte) (s : State) : (consumeByte rest s).hcnt = s.hcnt := rfl
@[simp] theorem consumeByte_hbuf (rest : List Byte) (s : State) : (consumeByte rest s).hbuf = s.hbuf := rfl
@[simp] theorem consumeByte_tag (rest : List Byte) (s : State) : (consumeByte rest s).tag = s.tag := rfl
@[simp] theorem consumeByte_plen (rest : List Byte) (s : State) : (consumeByte rest s).plen = s.plen := rfl
@[simp] theorem consumeByte_pcnt (rest : List Byte) (s : State) : (consumeByte rest s).pcnt = s.pcnt := rfl
@[simp] theorem consumeByte_pbuf (rest : List Byte) (s : State) : (consumeByte rest s).pbuf = s.pbuf := rfl
@[simp] theorem consumeByte_rep (rest : List Byte) (s : State) : (consumeByte rest s).rep = s.rep := rfl
@[simp] theorem consumeByte_tcnt (rest : List Byte) (s : State) : (consumeByte rest s).tcnt = s.tcnt := rfl
@[simp] theorem consumeByte_err (rest : List Byte) (s : State) : (consumeByte rest s).err = s.err := rfl
@[simp] theorem consumeByte_source (rest : List Byte) (s : State) : (consumeByte rest s).source = { s.source with pending := rest } := rfl
@[simp] theorem consumeByte_demand (rest : List Byte) (s : State) : (consumeByte rest s).demand = s.demand := rfl
@[simp] theorem consumeByte_out (rest : List Byte) (s : State) : (consumeByte rest s).out = s.out := rfl

@[simp] theorem cacheWrite_phase (i : CacheIndex) (p : Pixel) (s : State) : (cacheWrite i p s).phase = s.phase := rfl
@[simp] theorem cacheWrite_cur (i : CacheIndex) (p : Pixel) (s : State) : (cacheWrite i p s).cur = s.cur := rfl
@[simp] theorem cacheWrite_cache (i : CacheIndex) (p : Pixel) (s : State) : (cacheWrite i p s).cache = s.cache.set i.toNat p i.isLt := rfl
@[simp] theorem cacheWrite_width (i : CacheIndex) (p : Pixel) (s : State) : (cacheWrite i p s).width = s.width := rfl
@[simp] theorem cacheWrite_height (i : CacheIndex) (p : Pixel) (s : State) : (cacheWrite i p s).height = s.height := rfl
@[simp] theorem cacheWrite_channels (i : CacheIndex) (p : Pixel) (s : State) : (cacheWrite i p s).channels = s.channels := rfl
@[simp] theorem cacheWrite_colorspace (i : CacheIndex) (p : Pixel) (s : State) : (cacheWrite i p s).colorspace = s.colorspace := rfl
@[simp] theorem cacheWrite_hdrValid (i : CacheIndex) (p : Pixel) (s : State) : (cacheWrite i p s).hdrValid = s.hdrValid := rfl
@[simp] theorem cacheWrite_total (i : CacheIndex) (p : Pixel) (s : State) : (cacheWrite i p s).total = s.total := rfl
@[simp] theorem cacheWrite_emitted (i : CacheIndex) (p : Pixel) (s : State) : (cacheWrite i p s).emitted = s.emitted := rfl
@[simp] theorem cacheWrite_bpos (i : CacheIndex) (p : Pixel) (s : State) : (cacheWrite i p s).bpos = s.bpos := rfl
@[simp] theorem cacheWrite_hcnt (i : CacheIndex) (p : Pixel) (s : State) : (cacheWrite i p s).hcnt = s.hcnt := rfl
@[simp] theorem cacheWrite_hbuf (i : CacheIndex) (p : Pixel) (s : State) : (cacheWrite i p s).hbuf = s.hbuf := rfl
@[simp] theorem cacheWrite_tag (i : CacheIndex) (p : Pixel) (s : State) : (cacheWrite i p s).tag = s.tag := rfl
@[simp] theorem cacheWrite_plen (i : CacheIndex) (p : Pixel) (s : State) : (cacheWrite i p s).plen = s.plen := rfl
@[simp] theorem cacheWrite_pcnt (i : CacheIndex) (p : Pixel) (s : State) : (cacheWrite i p s).pcnt = s.pcnt := rfl
@[simp] theorem cacheWrite_pbuf (i : CacheIndex) (p : Pixel) (s : State) : (cacheWrite i p s).pbuf = s.pbuf := rfl
@[simp] theorem cacheWrite_rep (i : CacheIndex) (p : Pixel) (s : State) : (cacheWrite i p s).rep = s.rep := rfl
@[simp] theorem cacheWrite_tcnt (i : CacheIndex) (p : Pixel) (s : State) : (cacheWrite i p s).tcnt = s.tcnt := rfl
@[simp] theorem cacheWrite_err (i : CacheIndex) (p : Pixel) (s : State) : (cacheWrite i p s).err = s.err := rfl
@[simp] theorem cacheWrite_source (i : CacheIndex) (p : Pixel) (s : State) : (cacheWrite i p s).source = s.source := rfl
@[simp] theorem cacheWrite_demand (i : CacheIndex) (p : Pixel) (s : State) : (cacheWrite i p s).demand = s.demand := rfl
@[simp] theorem cacheWrite_out (i : CacheIndex) (p : Pixel) (s : State) : (cacheWrite i p s).out = s.out := rfl

@[simp] theorem raise_phase (e : Err) (s : State) : (raise e s).phase = .error := rfl
@[simp] theorem raise_cur (e : Err) (s : State) : (raise e s).cur = s.cur := rfl
@[simp] theorem raise_cache (e : Err) (s : State) : (raise e s).cache = s.cache := rfl
@[simp] theorem raise_width (e : Err) (s : State) : (raise e s).width = s.width := rfl
@[simp] theorem raise_height (e : Err) (s : State) : (raise e s).height = s.height := rfl
@[simp] theorem raise_channels (e : Err) (s : State) : (raise e s).channels = s.channels := rfl
@[simp] theorem raise_colorspace (e : Err) (s : State) : (raise e s).colorspace = s.colorspace := rfl
@[simp] theorem raise_hdrValid (e : Err) (s : State) : (raise e s).hdrValid = s.hdrValid := rfl
@[simp] theorem raise_total (e : Err) (s : State) : (raise e s).total = s.total := rfl
@[simp] theorem raise_emitted (e : Err) (s : State) : (raise e s).emitted = s.emitted := rfl
@[simp] theorem raise_bpos (e : Err) (s : State) : (raise e s).bpos = s.bpos := rfl
@[simp] theorem raise_hcnt (e : Err) (s : State) : (raise e s).hcnt = s.hcnt := rfl
@[simp] theorem raise_hbuf (e : Err) (s : State) : (raise e s).hbuf = s.hbuf := rfl
@[simp] theorem raise_tag (e : Err) (s : State) : (raise e s).tag = s.tag := rfl
@[simp] theorem raise_plen (e : Err) (s : State) : (raise e s).plen = s.plen := rfl
@[simp] theorem raise_pcnt (e : Err) (s : State) : (raise e s).pcnt = s.pcnt := rfl
@[simp] theorem raise_pbuf (e : Err) (s : State) : (raise e s).pbuf = s.pbuf := rfl
@[simp] theorem raise_rep (e : Err) (s : State) : (raise e s).rep = s.rep := rfl
@[simp] theorem raise_tcnt (e : Err) (s : State) : (raise e s).tcnt = s.tcnt := rfl
@[simp] theorem raise_err (e : Err) (s : State) : (raise e s).err = e := rfl
@[simp] theorem raise_source (e : Err) (s : State) : (raise e s).source = s.source := rfl
@[simp] theorem raise_demand (e : Err) (s : State) : (raise e s).demand = s.demand := rfl
@[simp] theorem raise_out (e : Err) (s : State) : (raise e s).out = s.out := rfl

@[simp] theorem commit_phase (new : Pixel) (s : State) : (commit new s).phase = s.phase := rfl
@[simp] theorem commit_cur (new : Pixel) (s : State) : (commit new s).cur = new := rfl
@[simp] theorem commit_cache (new : Pixel) (s : State) : (commit new s).cache = s.cache.set (pixelHash new).toNat new (pixelHash new).isLt := rfl
@[simp] theorem commit_width (new : Pixel) (s : State) : (commit new s).width = s.width := rfl
@[simp] theorem commit_height (new : Pixel) (s : State) : (commit new s).height = s.height := rfl
@[simp] theorem commit_channels (new : Pixel) (s : State) : (commit new s).channels = s.channels := rfl
@[simp] theorem commit_colorspace (new : Pixel) (s : State) : (commit new s).colorspace = s.colorspace := rfl
@[simp] theorem commit_hdrValid (new : Pixel) (s : State) : (commit new s).hdrValid = s.hdrValid := rfl
@[simp] theorem commit_total (new : Pixel) (s : State) : (commit new s).total = s.total := rfl
@[simp] theorem commit_emitted (new : Pixel) (s : State) : (commit new s).emitted = s.emitted := rfl
@[simp] theorem commit_bpos (new : Pixel) (s : State) : (commit new s).bpos = s.bpos := rfl
@[simp] theorem commit_hcnt (new : Pixel) (s : State) : (commit new s).hcnt = s.hcnt := rfl
@[simp] theorem commit_hbuf (new : Pixel) (s : State) : (commit new s).hbuf = s.hbuf := rfl
@[simp] theorem commit_tag (new : Pixel) (s : State) : (commit new s).tag = s.tag := rfl
@[simp] theorem commit_plen (new : Pixel) (s : State) : (commit new s).plen = s.plen := rfl
@[simp] theorem commit_pcnt (new : Pixel) (s : State) : (commit new s).pcnt = s.pcnt := rfl
@[simp] theorem commit_pbuf (new : Pixel) (s : State) : (commit new s).pbuf = s.pbuf := rfl
@[simp] theorem commit_rep (new : Pixel) (s : State) : (commit new s).rep = 1 := rfl
@[simp] theorem commit_tcnt (new : Pixel) (s : State) : (commit new s).tcnt = s.tcnt := rfl
@[simp] theorem commit_err (new : Pixel) (s : State) : (commit new s).err = s.err := rfl
@[simp] theorem commit_source (new : Pixel) (s : State) : (commit new s).source = s.source := rfl
@[simp] theorem commit_demand (new : Pixel) (s : State) : (commit new s).demand = s.demand := rfl
@[simp] theorem commit_out (new : Pixel) (s : State) : (commit new s).out = s.out := rfl

@[simp] theorem takePixel_phase (d : Demand) (s : State) : (takePixel d s).phase = s.phase := rfl
@[simp] theorem takePixel_cur (d : Demand) (s : State) : (takePixel d s).cur = s.cur := rfl
@[simp] theorem takePixel_cache (d : Demand) (s : State) : (takePixel d s).cache = s.cache := rfl
@[simp] theorem takePixel_width (d : Demand) (s : State) : (takePixel d s).width = s.width := rfl
@[simp] theorem takePixel_height (d : Demand) (s : State) : (takePixel d s).height = s.height := rfl
@[simp] theorem takePixel_channels (d : Demand) (s : State) : (takePixel d s).channels = s.channels := rfl
@[simp] theorem takePixel_colorspace (d : Demand) (s : State) : (takePixel d s).colorspace = s.colorspace := rfl
@[simp] theorem takePixel_hdrValid (d : Demand) (s : State) : (takePixel d s).hdrValid = s.hdrValid := rfl
@[simp] theorem takePixel_total (d : Demand) (s : State) : (takePixel d s).total = s.total := rfl
@[simp] theorem takePixel_emitted (d : Demand) (s : State) : (takePixel d s).emitted = s.emitted + 1 := rfl
@[simp] theorem takePixel_bpos (d : Demand) (s : State) : (takePixel d s).bpos = s.bpos := rfl
@[simp] theorem takePixel_hcnt (d : Demand) (s : State) : (takePixel d s).hcnt = s.hcnt := rfl
@[simp] theorem takePixel_hbuf (d : Demand) (s : State) : (takePixel d s).hbuf = s.hbuf := rfl
@[simp] theorem takePixel_tag (d : Demand) (s : State) : (takePixel d s).tag = s.tag := rfl
@[simp] theorem takePixel_plen (d : Demand) (s : State) : (takePixel d s).plen = s.plen := rfl
@[simp] theorem takePixel_pcnt (d : Demand) (s : State) : (takePixel d s).pcnt = s.pcnt := rfl
@[simp] theorem takePixel_pbuf (d : Demand) (s : State) : (takePixel d s).pbuf = s.pbuf := rfl
@[simp] theorem takePixel_rep (d : Demand) (s : State) : (takePixel d s).rep = s.rep := rfl
@[simp] theorem takePixel_tcnt (d : Demand) (s : State) : (takePixel d s).tcnt = s.tcnt := rfl
@[simp] theorem takePixel_err (d : Demand) (s : State) : (takePixel d s).err = s.err := rfl
@[simp] theorem takePixel_source (d : Demand) (s : State) : (takePixel d s).source = s.source := rfl
@[simp] theorem takePixel_demand (d : Demand) (s : State) : (takePixel d s).demand = d := rfl
@[simp] theorem takePixel_out (d : Demand) (s : State) : (takePixel d s).out = s.out ++ [s.cur] := rfl

@[simp] theorem storeHeaderByte_phase (v : Byte) (s : State) : (storeHeaderByte v s).phase = s.phase := rfl
@[simp] theorem storeHeaderByte_cur (v : Byte) (s : State) : (storeHeaderByte v s).cur = s.cur := rfl
@[simp] theorem storeHeaderByte_cache (v : Byte) (s : State) : (storeHeaderByte v s).cache = s.cache := rfl
@[simp] theorem storeHeaderByte_width (v : Byte) (s : State) : (storeHeaderByte v s).width = s.width := rfl
@[simp] theorem storeHeaderByte_height (v : Byte) (s : State) : (storeHeaderByte v s).height = s.height := rfl
@[simp] theorem storeHeaderByte_channels (v : Byte) (s : State) : (storeHeaderByte v s).channels = s.channels := rfl
@[simp] theorem storeHeaderByte_colorspace (v : Byte) (s : State) : (storeHeaderByte v s).colorspace = s.colorspace := rfl
@[simp] theorem storeHeaderByte_hdrValid (v : Byte) (s : State) : (storeHeaderByte v s).hdrValid = s.hdrValid := rfl
@[simp] theorem storeHeaderByte_total (v : Byte) (s : State) : (storeHeaderByte v s).total = s.total := rfl
@[simp] theorem storeHeaderByte_emitted (v : Byte) (s : State) : (storeHeaderByte v s).emitted = s.emitted := rfl
@[simp] theorem storeHeaderByte_bpos (v : Byte) (s : State) : (storeHeaderByte v s).bpos = s.bpos := rfl
@[simp] theorem storeHeaderByte_hcnt (v : Byte) (s : State) : (storeHeaderByte v s).hcnt = s.hcnt + 1 := rfl
@[simp] theorem storeHeaderByte_hbuf (v : Byte) (s : State) : (storeHeaderByte v s).hbuf = s.hbuf.setIfInBounds s.hcnt.toNat v := rfl
@[simp] theorem storeHeaderByte_tag (v : Byte) (s : State) : (storeHeaderByte v s).tag = s.tag := rfl
@[simp] theorem storeHeaderByte_plen (v : Byte) (s : State) : (storeHeaderByte v s).plen = s.plen := rfl
@[simp] theorem storeHeaderByte_pcnt (v : Byte) (s : State) : (storeHeaderByte v s).pcnt = s.pcnt := rfl
@[simp] theorem storeHeaderByte_pbuf (v : Byte) (s : State) : (storeHeaderByte v s).pbuf = s.pbuf := rfl
@[simp] theorem storeHeaderByte_rep (v : Byte) (s : State) : (storeHeaderByte v s).rep = s.rep := rfl
@[simp] theorem storeHeaderByte_tcnt (v : Byte) (s : State) : (storeHeaderByte v s).tcnt = s.tcnt := rfl
@[simp] theorem storeHeaderByte_err (v : Byte) (s : State) : (storeHeaderByte v s).err = s.err := rfl
@[simp] theorem storeHeaderByte_source (v : Byte) (s : State) : (storeHeaderByte v s).source = s.source := rfl
@[simp] theorem storeHeaderByte_demand (v : Byte) (s : State) : (storeHeaderByte v s).demand = s.demand := rfl
@[simp] theorem storeHeaderByte_out (v : Byte) (s : State) : (storeHeaderByte v s).out = s.out := rfl

@[simp] theorem loadHeader_phase (s : State) : (loadHeader s).phase = s.phase := rfl
@[simp] theorem loadHeader_cur (s : State) : (loadHeader s).cur = s.cur := rfl
@[simp] theorem loadHeader_cache (s : State) : (loadHeader s).cache = s.cache := rfl
@[simp] theorem loadHeader_width (s : State) : (loadHeader s).width = be32 s.hbuf[4] s.hbuf[5] s.hbuf[6] s.hbuf[7] := rfl
@[simp] theorem loadHeader_height (s : State) : (loadHeader s).height = be32 s.hbuf[8] s.hbuf[9] s.hbuf[10] s.hbuf[11] := rfl
@[simp] theorem loadHeader_channels (s : State) : (loadHeader s).channels = s.hbuf[12] := rfl
@[simp] theorem loadHeader_colorspace (s : State) : (loadHeader s).colorspace = s.hbuf[13] := rfl
@[simp] theorem loadHeader_hdrValid (s : State) : (loadHeader s).hdrValid = s.hdrValid := rfl
@[simp] theorem loadHeader_total (s : State) : (loadHeader s).total = s.total := rfl
@[simp] theorem loadHeader_emitted (s : State) : (loadHeader s).emitted = s.emitted := rfl
@[simp] theorem loadHeader_bpos (s : State) : (loadHeader s).bpos = s.bpos := rfl
@[simp] theorem loadHeader_hcnt (s : State) : (loadHeader s).hcnt = s.hcnt := rfl
@[simp] theorem loadHeader_hbuf (s : State) : (loadHeader s).hbuf = s.hbuf := rfl
@[simp] theorem loadHeader_tag (s : State) : (loadHeader s).tag = s.tag := rfl
@[simp] theorem loadHeader_plen (s : State) : (loadHeader s).plen = s.plen := rfl
@[simp] theorem loadHeader_pcnt (s : State) : (loadHeader s).pcnt = s.pcnt := rfl
@[simp] theorem loadHeader_pbuf (s : State) : (loadHeader s).pbuf = s.pbuf := rfl
@[simp] theorem loadHeader_rep (s : State) : (loadHeader s).rep = s.rep := rfl
@[simp] theorem loadHeader_tcnt (s : State) : (loadHeader s).tcnt = s.tcnt := rfl
@[simp] theorem loadHeader_err (s : State) : (loadHeader s).err = s.err := rfl
@[simp] theorem loadHeader_source (s : State) : (loadHeader s).source = s.source := rfl
@[simp] theorem loadHeader_demand (s : State) : (loadHeader s).demand = s.demand := rfl
@[simp] theorem loadHeader_out (s : State) : (loadHeader s).out = s.out := rfl

@[simp] theorem acceptHeader_phase (s : State) : (acceptHeader s).phase = .tag := rfl
@[simp] theorem acceptHeader_cur (s : State) : (acceptHeader s).cur = s.cur := rfl
@[simp] theorem acceptHeader_cache (s : State) : (acceptHeader s).cache = s.cache := rfl
@[simp] theorem acceptHeader_width (s : State) : (acceptHeader s).width = s.width := rfl
@[simp] theorem acceptHeader_height (s : State) : (acceptHeader s).height = s.height := rfl
@[simp] theorem acceptHeader_channels (s : State) : (acceptHeader s).channels = s.channels := rfl
@[simp] theorem acceptHeader_colorspace (s : State) : (acceptHeader s).colorspace = s.colorspace := rfl
@[simp] theorem acceptHeader_hdrValid (s : State) : (acceptHeader s).hdrValid = true := rfl
@[simp] theorem acceptHeader_total (s : State) : (acceptHeader s).total = s.width.setWidth 64 * s.height.setWidth 64 := rfl
@[simp] theorem acceptHeader_emitted (s : State) : (acceptHeader s).emitted = s.emitted := rfl
@[simp] theorem acceptHeader_bpos (s : State) : (acceptHeader s).bpos = s.bpos := rfl
@[simp] theorem acceptHeader_hcnt (s : State) : (acceptHeader s).hcnt = s.hcnt := rfl
@[simp] theorem acceptHeader_hbuf (s : State) : (acceptHeader s).hbuf = s.hbuf := rfl
@[simp] theorem acceptHeader_tag (s : State) : (acceptHeader s).tag = s.tag := rfl
@[simp] theorem acceptHeader_plen (s : State) : (acceptHeader s).plen = s.plen := rfl
@[simp] theorem acceptHeader_pcnt (s : State) : (acceptHeader s).pcnt = s.pcnt := rfl
@[simp] theorem acceptHeader_pbuf (s : State) : (acceptHeader s).pbuf = s.pbuf := rfl
@[simp] theorem acceptHeader_rep (s : State) : (acceptHeader s).rep = s.rep := rfl
@[simp] theorem acceptHeader_tcnt (s : State) : (acceptHeader s).tcnt = s.tcnt := rfl
@[simp] theorem acceptHeader_err (s : State) : (acceptHeader s).err = s.err := rfl
@[simp] theorem acceptHeader_source (s : State) : (acceptHeader s).source = s.source := rfl
@[simp] theorem acceptHeader_demand (s : State) : (acceptHeader s).demand = s.demand := rfl
@[simp] theorem acceptHeader_out (s : State) : (acceptHeader s).out = s.out := rfl

@[simp] theorem latchTag_phase (v : Byte) (p : BitVec 3) (s : State) : (latchTag v p s).phase = s.phase := rfl
@[simp] theorem latchTag_cur (v : Byte) (p : BitVec 3) (s : State) : (latchTag v p s).cur = s.cur := rfl
@[simp] theorem latchTag_cache (v : Byte) (p : BitVec 3) (s : State) : (latchTag v p s).cache = s.cache := rfl
@[simp] theorem latchTag_width (v : Byte) (p : BitVec 3) (s : State) : (latchTag v p s).width = s.width := rfl
@[simp] theorem latchTag_height (v : Byte) (p : BitVec 3) (s : State) : (latchTag v p s).height = s.height := rfl
@[simp] theorem latchTag_channels (v : Byte) (p : BitVec 3) (s : State) : (latchTag v p s).channels = s.channels := rfl
@[simp] theorem latchTag_colorspace (v : Byte) (p : BitVec 3) (s : State) : (latchTag v p s).colorspace = s.colorspace := rfl
@[simp] theorem latchTag_hdrValid (v : Byte) (p : BitVec 3) (s : State) : (latchTag v p s).hdrValid = s.hdrValid := rfl
@[simp] theorem latchTag_total (v : Byte) (p : BitVec 3) (s : State) : (latchTag v p s).total = s.total := rfl
@[simp] theorem latchTag_emitted (v : Byte) (p : BitVec 3) (s : State) : (latchTag v p s).emitted = s.emitted := rfl
@[simp] theorem latchTag_bpos (v : Byte) (p : BitVec 3) (s : State) : (latchTag v p s).bpos = s.bpos := rfl
@[simp] theorem latchTag_hcnt (v : Byte) (p : BitVec 3) (s : State) : (latchTag v p s).hcnt = s.hcnt := rfl
@[simp] theorem latchTag_hbuf (v : Byte) (p : BitVec 3) (s : State) : (latchTag v p s).hbuf = s.hbuf := rfl
@[simp] theorem latchTag_tag (v : Byte) (p : BitVec 3) (s : State) : (latchTag v p s).tag = v := rfl
@[simp] theorem latchTag_plen (v : Byte) (p : BitVec 3) (s : State) : (latchTag v p s).plen = p := rfl
@[simp] theorem latchTag_pcnt (v : Byte) (p : BitVec 3) (s : State) : (latchTag v p s).pcnt = 0 := rfl
@[simp] theorem latchTag_pbuf (v : Byte) (p : BitVec 3) (s : State) : (latchTag v p s).pbuf = s.pbuf := rfl
@[simp] theorem latchTag_rep (v : Byte) (p : BitVec 3) (s : State) : (latchTag v p s).rep = s.rep := rfl
@[simp] theorem latchTag_tcnt (v : Byte) (p : BitVec 3) (s : State) : (latchTag v p s).tcnt = s.tcnt := rfl
@[simp] theorem latchTag_err (v : Byte) (p : BitVec 3) (s : State) : (latchTag v p s).err = s.err := rfl
@[simp] theorem latchTag_source (v : Byte) (p : BitVec 3) (s : State) : (latchTag v p s).source = s.source := rfl
@[simp] theorem latchTag_demand (v : Byte) (p : BitVec 3) (s : State) : (latchTag v p s).demand = s.demand := rfl
@[simp] theorem latchTag_out (v : Byte) (p : BitVec 3) (s : State) : (latchTag v p s).out = s.out := rfl

@[simp] theorem latchPayload_phase (v : Byte) (s : State) : (latchPayload v s).phase = s.phase := rfl
@[simp] theorem latchPayload_cur (v : Byte) (s : State) : (latchPayload v s).cur = s.cur := rfl
@[simp] theorem latchPayload_cache (v : Byte) (s : State) : (latchPayload v s).cache = s.cache := rfl
@[simp] theorem latchPayload_width (v : Byte) (s : State) : (latchPayload v s).width = s.width := rfl
@[simp] theorem latchPayload_height (v : Byte) (s : State) : (latchPayload v s).height = s.height := rfl
@[simp] theorem latchPayload_channels (v : Byte) (s : State) : (latchPayload v s).channels = s.channels := rfl
@[simp] theorem latchPayload_colorspace (v : Byte) (s : State) : (latchPayload v s).colorspace = s.colorspace := rfl
@[simp] theorem latchPayload_hdrValid (v : Byte) (s : State) : (latchPayload v s).hdrValid = s.hdrValid := rfl
@[simp] theorem latchPayload_total (v : Byte) (s : State) : (latchPayload v s).total = s.total := rfl
@[simp] theorem latchPayload_emitted (v : Byte) (s : State) : (latchPayload v s).emitted = s.emitted := rfl
@[simp] theorem latchPayload_bpos (v : Byte) (s : State) : (latchPayload v s).bpos = s.bpos := rfl
@[simp] theorem latchPayload_hcnt (v : Byte) (s : State) : (latchPayload v s).hcnt = s.hcnt := rfl
@[simp] theorem latchPayload_hbuf (v : Byte) (s : State) : (latchPayload v s).hbuf = s.hbuf := rfl
@[simp] theorem latchPayload_tag (v : Byte) (s : State) : (latchPayload v s).tag = s.tag := rfl
@[simp] theorem latchPayload_plen (v : Byte) (s : State) : (latchPayload v s).plen = s.plen := rfl
@[simp] theorem latchPayload_pcnt (v : Byte) (s : State) : (latchPayload v s).pcnt = s.pcnt + 1 := rfl
@[simp] theorem latchPayload_pbuf (v : Byte) (s : State) : (latchPayload v s).pbuf = s.pbuf.setIfInBounds s.pcnt.toNat v := rfl
@[simp] theorem latchPayload_rep (v : Byte) (s : State) : (latchPayload v s).rep = s.rep := rfl
@[simp] theorem latchPayload_tcnt (v : Byte) (s : State) : (latchPayload v s).tcnt = s.tcnt := rfl
@[simp] theorem latchPayload_err (v : Byte) (s : State) : (latchPayload v s).err = s.err := rfl
@[simp] theorem latchPayload_source (v : Byte) (s : State) : (latchPayload v s).source = s.source := rfl
@[simp] theorem latchPayload_demand (v : Byte) (s : State) : (latchPayload v s).demand = s.demand := rfl
@[simp] theorem latchPayload_out (v : Byte) (s : State) : (latchPayload v s).out = s.out := rfl

@[simp] theorem setPhase_phase (p : Phase) (s : State) : (setPhase p s).phase = p := rfl
@[simp] theorem setPhase_cur (p : Phase) (s : State) : (setPhase p s).cur = s.cur := rfl
@[simp] theorem setPhase_cache (p : Phase) (s : State) : (setPhase p s).cache = s.cache := rfl
@[simp] theorem setPhase_width (p : Phase) (s : State) : (setPhase p s).width = s.width := rfl
@[simp] theorem setPhase_height (p : Phase) (s : State) : (setPhase p s).height = s.height := rfl
@[simp] theorem setPhase_channels (p : Phase) (s : State) : (setPhase p s).channels = s.channels := rfl
@[simp] theorem setPhase_colorspace (p : Phase) (s : State) : (setPhase p s).colorspace = s.colorspace := rfl
@[simp] theorem setPhase_hdrValid (p : Phase) (s : State) : (setPhase p s).hdrValid = s.hdrValid := rfl
@[simp] theorem setPhase_total (p : Phase) (s : State) : (setPhase p s).total = s.total := rfl
@[simp] theorem setPhase_emitted (p : Phase) (s : State) : (setPhase p s).emitted = s.emitted := rfl
@[simp] theorem setPhase_bpos (p : Phase) (s : State) : (setPhase p s).bpos = s.bpos := rfl
@[simp] theorem setPhase_hcnt (p : Phase) (s : State) : (setPhase p s).hcnt = s.hcnt := rfl
@[simp] theorem setPhase_hbuf (p : Phase) (s : State) : (setPhase p s).hbuf = s.hbuf := rfl
@[simp] theorem setPhase_tag (p : Phase) (s : State) : (setPhase p s).tag = s.tag := rfl
@[simp] theorem setPhase_plen (p : Phase) (s : State) : (setPhase p s).plen = s.plen := rfl
@[simp] theorem setPhase_pcnt (p : Phase) (s : State) : (setPhase p s).pcnt = s.pcnt := rfl
@[simp] theorem setPhase_pbuf (p : Phase) (s : State) : (setPhase p s).pbuf = s.pbuf := rfl
@[simp] theorem setPhase_rep (p : Phase) (s : State) : (setPhase p s).rep = s.rep := rfl
@[simp] theorem setPhase_tcnt (p : Phase) (s : State) : (setPhase p s).tcnt = s.tcnt := rfl
@[simp] theorem setPhase_err (p : Phase) (s : State) : (setPhase p s).err = s.err := rfl
@[simp] theorem setPhase_source (p : Phase) (s : State) : (setPhase p s).source = s.source := rfl
@[simp] theorem setPhase_demand (p : Phase) (s : State) : (setPhase p s).demand = s.demand := rfl
@[simp] theorem setPhase_out (p : Phase) (s : State) : (setPhase p s).out = s.out := rfl

@[simp] theorem setDemand_phase (d : Demand) (s : State) : (s.setDemand d).phase = s.phase := rfl
@[simp] theorem setDemand_cur (d : Demand) (s : State) : (s.setDemand d).cur = s.cur := rfl
@[simp] theorem setDemand_cache (d : Demand) (s : State) : (s.setDemand d).cache = s.cache := rfl
@[simp] theorem setDemand_width (d : Demand) (s : State) : (s.setDemand d).width = s.width := rfl
@[simp] theorem setDemand_height (d : Demand) (s : State) : (s.setDemand d).height = s.height := rfl
@[simp] theorem setDemand_channels (d : Demand) (s : State) : (s.setDemand d).channels = s.channels := rfl
@[simp] theorem setDemand_colorspace (d : Demand) (s : State) : (s.setDemand d).colorspace = s.colorspace := rfl
@[simp] theorem setDemand_hdrValid (d : Demand) (s : State) : (s.setDemand d).hdrValid = s.hdrValid := rfl
@[simp] theorem setDemand_total (d : Demand) (s : State) : (s.setDemand d).total = s.total := rfl
@[simp] theorem setDemand_emitted (d : Demand) (s : State) : (s.setDemand d).emitted = s.emitted := rfl
@[simp] theorem setDemand_bpos (d : Demand) (s : State) : (s.setDemand d).bpos = s.bpos := rfl
@[simp] theorem setDemand_hcnt (d : Demand) (s : State) : (s.setDemand d).hcnt = s.hcnt := rfl
@[simp] theorem setDemand_hbuf (d : Demand) (s : State) : (s.setDemand d).hbuf = s.hbuf := rfl
@[simp] theorem setDemand_tag (d : Demand) (s : State) : (s.setDemand d).tag = s.tag := rfl
@[simp] theorem setDemand_plen (d : Demand) (s : State) : (s.setDemand d).plen = s.plen := rfl
@[simp] theorem setDemand_pcnt (d : Demand) (s : State) : (s.setDemand d).pcnt = s.pcnt := rfl
@[simp] theorem setDemand_pbuf (d : Demand) (s : State) : (s.setDemand d).pbuf = s.pbuf := rfl
@[simp] theorem setDemand_rep (d : Demand) (s : State) : (s.setDemand d).rep = s.rep := rfl
@[simp] theorem setDemand_tcnt (d : Demand) (s : State) : (s.setDemand d).tcnt = s.tcnt := rfl
@[simp] theorem setDemand_err (d : Demand) (s : State) : (s.setDemand d).err = s.err := rfl
@[simp] theorem setDemand_source (d : Demand) (s : State) : (s.setDemand d).source = s.source := rfl
@[simp] theorem setDemand_demand (d : Demand) (s : State) : (s.setDemand d).demand = d := rfl
@[simp] theorem setDemand_out (d : Demand) (s : State) : (s.setDemand d).out = s.out := rfl

end Sys2Proof.Machine
end

