-- ==== Sys2Proof/Laws/Ops.lean ====
section
/-! SUPPORT. For each shared operation, what it can do. -/
namespace Sys2Proof.Machine

/-- 43_index_cache.md R91. -/
theorem pixelHash_toNat (p : Pixel) :
    (pixelHash p).toNat = (p.r.toNat * 3 + p.g.toNat * 5 + p.b.toNat * 7 + p.a.toNat * 11) % 64 := by
  simp only [pixelHash, BitVec.toNat_ofNat]
  omega

/-- 20_memory.md R46, R47. -/
theorem cacheRead_cacheWrite (i j : CacheIndex) (p : Pixel) (s : State) :
    cacheRead j (cacheWrite i p s) = if j = i then p else cacheRead j s := by
  simp only [cacheRead, cacheWrite, Vector.getElem_set, BitVec.toNat_eq]
  split <;> split <;> simp_all

@[simp] theorem cacheRead_commit_pixelHash (new : Pixel) (s : State) : cacheRead (pixelHash new) (commit new s) = new := by
  simp [cacheRead]

/-- 43_index_cache.md R93: commit leaves the other slots alone. -/
theorem cacheRead_commit (i : CacheIndex) (new : Pixel) (s : State) :
    cacheRead i (commit new s) = if i = pixelHash new then new else cacheRead i s :=
  cacheRead_cacheWrite (pixelHash new) i new s

/-- Reading the cache looks at nothing but CACHE. -/
theorem cacheRead_congr {s t : State} (h : s.cache = t.cache) (i : CacheIndex) : cacheRead i s = cacheRead i t := by
  simp [cacheRead, h]

theorem byteRead_byte {v : Byte} {s t : State} :
    byteRead s = .byte v t ↔ ∃ rest, s.source.pending = v :: rest ∧ t = consumeByte rest s := by
  unfold byteRead
  split
  · rename_i w rest heq
    constructor
    · intro h
      cases h
      exact ⟨rest, heq, rfl⟩
    · rintro ⟨r, hr, rfl⟩
      rw [heq] at hr
      cases hr
      rfl
  · rename_i heq
    split <;> simp [heq]

theorem byteRead_ended {s : State} : byteRead s = .ended ↔ s.source.pending = [] ∧ s.source.ended = true := by
  unfold byteRead
  split
  · simp_all
  · split <;> simp_all

theorem byteRead_waits {s : State} : byteRead s = .waits ↔ s.source.pending = [] ∧ s.source.ended = false := by
  unfold byteRead
  split
  · simp_all
  · split <;> simp_all

/-- The three answers of a ByteRead (20_memory.md R38, R41). -/
theorem byteRead_cases (s : State) :
    (∃ v rest, s.source.pending = v :: rest ∧ byteRead s = .byte v (consumeByte rest s)) ∨
    (s.source.pending = [] ∧ s.source.ended = true ∧ byteRead s = .ended) ∨
    (s.source.pending = [] ∧ s.source.ended = false ∧ byteRead s = .waits) := by
  unfold byteRead
  split
  · exact .inl ⟨_, _, ‹_›, rfl⟩
  · split
    · exact .inr (.inl ⟨‹_›, ‹_›, rfl⟩)
    · rename_i h
      exact .inr (.inr ⟨‹_›, by simpa using h, rfl⟩)

/-- The two outcomes of an Emit (20_memory.md R50). -/
theorem emitCur_cases (s : State) :
    (emitCur s = none ∧ s.demand = .count 0) ∨ ∃ d, emitCur s = some (takePixel d s) := by
  unfold emitCur
  split
  · exact .inr ⟨_, rfl⟩
  · exact .inl ⟨rfl, ‹_›⟩
  · exact .inr ⟨_, rfl⟩

end Sys2Proof.Machine
end

