-- ==== Sys2Proof/Laws/PerInstr.lean ====
section
/-! SUPPORT. Statements for all chunks, one lemma per constructor. The family `EncodedLength`: a well-formed chunk's encoding is
a tag byte and exactly the payload bytes that tag needs (30_encoding.md R62, R74). -/
namespace Sys2Proof.Laws.EncodedLength

def Statement (i : Instr) : Prop :=
  i.wellFormed = true → ∃ b0 payload, encode i = some (b0 :: payload) ∧ payload.length = (plenOf b0).toNat

theorem rgb (r g b : Byte) : Statement (.rgb r g b) :=
  fun _ => ⟨0xFE, [r, g, b], rfl, rfl⟩

theorem rgba (r g b a : Byte) : Statement (.rgba r g b a) :=
  fun _ => ⟨0xFF, [r, g, b, a], rfl, rfl⟩

theorem plenOf_index : ∀ i : BitVec 6, plenOf (0b00#2 ++ i) = 0 := by decide

theorem index (i : BitVec 6) : Statement (.index i) :=
  fun _ => ⟨_, [], rfl, by rw [plenOf_index]; rfl⟩

theorem plenOf_diff : ∀ dr dg db : BitVec 2, plenOf (0b01#2 ++ dr ++ dg ++ db) = 0 := by decide

theorem diff (dr dg db : BitVec 2) : Statement (.diff dr dg db) :=
  fun _ => ⟨_, [], rfl, by rw [plenOf_diff]; rfl⟩

theorem plenOf_luma : ∀ dg : BitVec 6, plenOf (0b10#2 ++ dg) = 1 := by decide

theorem luma (dg : BitVec 6) (drdg dbdg : BitVec 4) : Statement (.luma dg drdg dbdg) :=
  fun _ => ⟨_, [_], rfl, by rw [plenOf_luma]; rfl⟩

theorem plenOf_run : ∀ n : BitVec 6, n.toNat ≤ 61 → plenOf (0b11#2 ++ n) = 0 := by decide

theorem run (n : BitVec 6) : Statement (.run n) := by
  intro h
  have hn : n.toNat ≤ 61 := by simpa [Instr.wellFormed] using h
  exact ⟨_, [], if_pos h, by rw [plenOf_run n hn]; rfl⟩

end Sys2Proof.Laws.EncodedLength
end

