-- ==== Sys2Proof/Laws/Phases.lean ====
section
/-! SUPPORT. What an instruction and a step can do, said once: one case lemma per phase (46_framing.md R103). -/
namespace Sys2Proof.Machine

/-- The pixel a non-RUN chunk commits, and none for RUN. -/
def newPixel : Instr → State → Option Pixel
  | .rgb r g b, s => some ⟨r, g, b, s.cur.a⟩
  | .rgba r g b a, _ => some ⟨r, g, b, a⟩
  | .index i, s => some (cacheRead i s)
  | .diff dr dg db, s =>
    some ⟨diffChannel s.cur.r dr, diffChannel s.cur.g dg, diffChannel s.cur.b db, s.cur.a⟩
  | .luma dg drdg dbdg, s =>
    some ⟨lumaChannel s.cur.r (lumaGreen dg) drdg, addW s.cur.g (lumaGreen dg),
      lumaChannel s.cur.b (lumaGreen dg) dbdg, s.cur.a⟩
  | .run _, _ => none

/-- Every well-formed chunk commits a pixel or is a RUN that sets REP alone (43_index_cache.md R93, 45_run_chunk.md R97). -/
theorem exec_cases {i : Instr} (hi : i.wellFormed = true) (s : State) :
    (∃ new, newPixel i s = some new ∧ exec i s = .next (commit new s)) ∨
    ∃ n : BitVec 6, i = .run n ∧ n.toNat ≤ 61 ∧ exec i s = .next { s with rep := n + 1 } := by
  cases i with
  | rgb r g b => exact .inl ⟨_, rfl, rfl⟩
  | rgba r g b a => exact .inl ⟨_, rfl, rfl⟩
  | index k => exact .inl ⟨_, rfl, rfl⟩
  | diff dr dg db => exact .inl ⟨_, rfl, rfl⟩
  | luma dg drdg dbdg => exact .inl ⟨_, rfl, rfl⟩
  | run n =>
    have hn : n.toNat ≤ 61 := by simpa [Instr.wellFormed] using hi
    exact .inr ⟨n, rfl, hn, by simp [exec, execRun, runCount, hn]⟩

/-- The chunk effect as `apply_chunk` leaves it, PHASE included (41_tokenizer.md R86): a commit, or REP alone. -/
theorem applyChunk_cases {i : Instr} (hi : i.wellFormed = true) (s : State) :
    (∃ new, newPixel i s = some new ∧ applyChunk i s = .next (setPhase .emit (commit new s))) ∨
    ∃ n : BitVec 6, i = .run n ∧ n.toNat ≤ 61 ∧ applyChunk i s = .next (setPhase .emit { s with rep := n + 1 }) := by
  obtain ⟨new, hn, he⟩ | ⟨n, rfl, hn, he⟩ := exec_cases hi s
  · exact .inl ⟨new, hn, by simp [applyChunk, he, afterExec]⟩
  · exact .inr ⟨n, rfl, hn, by simp [applyChunk, he, afterExec]⟩

/-- 40_header.md R78: the checks raise HEADER or accept. -/
theorem checkHeader_cases (magic : Magic) (s : State) :
    checkHeader magic s = raise .header s ∨
    (#v[s.hbuf[0], s.hbuf[1], s.hbuf[2], s.hbuf[3]] = magic ∧ s.width ≠ 0 ∧ s.height ≠ 0 ∧
      checkHeader magic s = acceptHeader s) := by
  unfold checkHeader
  split
  · exact .inl rfl
  split
  · exact .inl rfl
  split
  · exact .inl rfl
  · rename_i hm hw hh
    exact .inr ⟨Decidable.not_not.mp hm, hw, hh, rfl⟩

/-- 40_header.md R78: a header with the magic and a nonzero size is accepted. -/
theorem checkHeader_accepts {magic : Magic} {s : State} (hm : #v[s.hbuf[0], s.hbuf[1], s.hbuf[2], s.hbuf[3]] = magic)
    (hw : s.width ≠ 0) (hh : s.height ≠ 0) : checkHeader magic s = acceptHeader s := by
  rw [checkHeader, if_neg (not_not.2 hm), if_neg hw, if_neg hh]

/-- What a step from HDR answers (40_header.md R76 to R78). -/
theorem headerStep_cases (magic : Magic) (s : State) :
    (headerStep magic s = .next s ∧ byteRead s = .waits) ∨
    (headerStep magic s = .next (raise .header s) ∧ byteRead s = .ended) ∨
    ∃ v rest, s.source.pending = v :: rest ∧
      ((s.hcnt + 1 ≠ 14 ∧ headerStep magic s = .next (storeHeaderByte v (consumeByte rest s))) ∨
       (s.hcnt + 1 = 14 ∧ headerStep magic s =
          .next (checkHeader magic (loadHeader (storeHeaderByte v (consumeByte rest s)))))) := by
  unfold headerStep
  obtain ⟨v, rest, hp, hr⟩ | ⟨-, -, hr⟩ | ⟨-, -, hr⟩ := byteRead_cases s <;> simp only [hr]
  · refine .inr (.inr ⟨v, rest, hp, ?_⟩)
    by_cases h : s.hcnt + 1 = 14
    · exact .inr ⟨h, if_pos h⟩
    · exact .inl ⟨h, if_neg h⟩
  · simp
  · simp

/-- What a step from TAG answers (41_tokenizer.md R83). -/
theorem tagStep_cases (s : State) :
    (tagStep s = .next s ∧ byteRead s = .waits) ∨
    (tagStep s = .next (raise .truncated s) ∧ byteRead s = .ended) ∨
    ∃ v rest, s.source.pending = v :: rest ∧
      ((plenOf v ≠ 0 ∧ tagStep s = .next (setPhase .payload (latchTag v (plenOf v) (consumeByte rest s)))) ∨
       (plenOf v = 0 ∧ tagStep s =
          applyChunk (chunkOf v s.pbuf) (latchTag v (plenOf v) (consumeByte rest s)))) := by
  unfold tagStep
  obtain ⟨v, rest, hp, hr⟩ | ⟨-, -, hr⟩ | ⟨-, -, hr⟩ := byteRead_cases s <;> simp only [hr]
  · refine .inr (.inr ⟨v, rest, hp, ?_⟩)
    by_cases h : plenOf v = 0
    · exact .inr ⟨h, if_pos h⟩
    · exact .inl ⟨h, if_neg h⟩
  · simp
  · simp

/-- What a step from PAYLOAD answers (41_tokenizer.md R84). -/
theorem payloadStep_cases (s : State) :
    (payloadStep s = .next s ∧ byteRead s = .waits) ∨
    (payloadStep s = .next (raise .truncated s) ∧ byteRead s = .ended) ∨
    ∃ v rest, s.source.pending = v :: rest ∧
      ((s.pcnt + 1 ≠ s.plen ∧ payloadStep s = .next (latchPayload v (consumeByte rest s))) ∨
       (s.pcnt + 1 = s.plen ∧ payloadStep s =
          applyChunk (chunkOf s.tag (latchPayload v (consumeByte rest s)).pbuf)
            (latchPayload v (consumeByte rest s)))) := by
  unfold payloadStep
  obtain ⟨v, rest, hp, hr⟩ | ⟨-, -, hr⟩ | ⟨-, -, hr⟩ := byteRead_cases s <;> simp only [hr]
  · refine .inr (.inr ⟨v, rest, hp, ?_⟩)
    by_cases h : s.pcnt + 1 = s.plen
    · exact .inr ⟨h, if_pos h⟩
    · exact .inl ⟨h, if_neg h⟩
  · simp
  · simp

/-- What a step from EMIT answers (46_framing.md R99). -/
theorem emitStep_cases (s : State) :
    (emitStep s = .next s ∧ s.demand = .count 0) ∨
    ∃ d, emitStep s = .next (afterEmit (takePixel d s)) := by
  unfold emitStep
  obtain ⟨h, hd⟩ | ⟨d, h⟩ := emitCur_cases s <;> simp only [h]
  · exact .inl ⟨trivial, hd⟩
  · exact .inr ⟨d, rfl⟩

/-- Where the emit step goes (46_framing.md R99). -/
theorem afterEmit_cases (s : State) :
    (s.emitted = s.total ∧ afterEmit s = { s with rep := 0, tcnt := 0, phase := .trailer }) ∨
    (s.emitted ≠ s.total ∧ s.rep - 1 = 0 ∧ afterEmit s = { s with rep := 0, phase := .tag }) ∨
    (s.emitted ≠ s.total ∧ s.rep - 1 ≠ 0 ∧ afterEmit s = { s with rep := s.rep - 1 }) := by
  unfold afterEmit
  by_cases h : s.emitted = s.total
  · exact .inl ⟨h, if_pos h⟩
  by_cases h1 : s.rep - 1 = 0
  · exact .inr (.inl ⟨h, h1, by rw [if_neg h, if_pos h1, h1]; rfl⟩)
  · exact .inr (.inr ⟨h, h1, by rw [if_neg h, if_neg h1]⟩)

/-- What a step from TRAILER answers (46_framing.md R101). -/
theorem trailerStep_cases (s : State) :
    (trailerStep s = .next s ∧ byteRead s = .waits) ∨
    (s.tcnt.toNat < 8 ∧ byteRead s = .ended ∧ trailerStep s = .next (raise .trailerMismatch s)) ∨
    (¬ s.tcnt.toNat < 8 ∧ byteRead s = .ended ∧ trailerStep s = .next (setPhase .done s)) ∨
    ∃ v rest, s.source.pending = v :: rest ∧
      ((s.tcnt.toNat < 8 ∧ v = trailerByte s.tcnt ∧
          trailerStep s = .next { consumeByte rest s with tcnt := s.tcnt + 1 }) ∨
       (¬ (s.tcnt.toNat < 8 ∧ v = trailerByte s.tcnt) ∧
          trailerStep s = .next (raise .trailerMismatch (consumeByte rest s)))) := by
  unfold trailerStep
  by_cases h : s.tcnt.toNat < 8 <;> simp only [h, if_true, if_false] <;>
    obtain ⟨v, rest, hp, hr⟩ | ⟨-, -, hr⟩ | ⟨-, -, hr⟩ := byteRead_cases s <;> simp only [hr]
  · refine .inr (.inr (.inr ⟨v, rest, hp, ?_⟩))
    by_cases hv : v = trailerByte s.tcnt
    · exact .inl ⟨trivial, hv, by simp [hv]⟩
    · exact .inr ⟨by simp [hv], by simp [hv]⟩
  · simp
  · simp
  · exact .inr (.inr (.inr ⟨v, rest, hp, .inr ⟨by simp, rfl⟩⟩))
  · simp
  · simp

/-- An enabled step is its phase's step (46_framing.md R103), phase by phase. -/
theorem step_hdr {s : State} (h : enabled s = true) (hp : s.phase = .hdr) : step s = headerStep Config.magic s := by
  simp [step, stepWith, h, hp]

theorem step_tag {s : State} (h : enabled s = true) (hp : s.phase = .tag) : step s = tagStep s := by
  simp [step, stepWith, h, hp]

theorem step_payload {s : State} (h : enabled s = true) (hp : s.phase = .payload) : step s = payloadStep s := by
  simp [step, stepWith, h, hp]

theorem step_emit {s : State} (h : enabled s = true) (hp : s.phase = .emit) : step s = emitStep s := by
  simp [step, stepWith, h, hp]

theorem step_trailer {s : State} (h : enabled s = true) (hp : s.phase = .trailer) : step s = trailerStep s := by
  simp [step, stepWith, h, hp]

/-- A step that answers a next state was enabled. -/
theorem enabled_of_step {s t : State} (h : step s = .next t) : enabled s = true := by
  by_contra hn
  simp [step, stepWith, hn] at h

/-- What a chunk that has been applied can have changed: CUR, CACHE and REP, and PHASE is EMIT. -/
theorem applyChunk_shape {i : Instr} {s t : State} (hi : i.wellFormed = true) (h : applyChunk i s = .next t) :
    t = { s with phase := .emit, cur := t.cur, cache := t.cache, rep := t.rep } := by
  obtain ⟨new, -, e⟩ | ⟨n, -, hn, e⟩ := applyChunk_cases hi s <;> rw [e] at h <;> cases h <;> rfl

/-- Everything a step can do, in every state (46_framing.md R103): it changes nothing, or it is one of the cases of the phase
rules, with the next state written out. -/
theorem step_cases {s t : State} (h : step s = .next t) :
    t = s ∨
    (s.phase = .hdr ∧ s.source.pending = [] ∧ s.source.ended = true ∧ t = raise .header s) ∨
    (∃ v rest, s.phase = .hdr ∧ s.source.pending = v :: rest ∧ s.hcnt + 1 ≠ 14 ∧
      t = storeHeaderByte v (consumeByte rest s)) ∨
    (∃ v rest, s.phase = .hdr ∧ s.source.pending = v :: rest ∧ s.hcnt + 1 = 14 ∧
      t = raise .header (loadHeader (storeHeaderByte v (consumeByte rest s)))) ∨
    (∃ v rest, s.phase = .hdr ∧ s.source.pending = v :: rest ∧ s.hcnt + 1 = 14 ∧
      t = acceptHeader (loadHeader (storeHeaderByte v (consumeByte rest s)))) ∨
    ((s.phase = .tag ∨ s.phase = .payload) ∧ s.source.pending = [] ∧ s.source.ended = true ∧ t = raise .truncated s) ∨
    (∃ v rest, s.phase = .tag ∧ s.source.pending = v :: rest ∧ plenOf v ≠ 0 ∧
      t = setPhase .payload (latchTag v (plenOf v) (consumeByte rest s))) ∨
    (∃ v rest, s.phase = .tag ∧ s.source.pending = v :: rest ∧ plenOf v = 0 ∧
      t = { latchTag v (plenOf v) (consumeByte rest s) with
            phase := .emit, cur := t.cur, cache := t.cache, rep := t.rep }) ∨
    (∃ v rest, s.phase = .payload ∧ s.source.pending = v :: rest ∧ s.pcnt + 1 ≠ s.plen ∧
      t = latchPayload v (consumeByte rest s)) ∨
    (∃ v rest, s.phase = .payload ∧ s.source.pending = v :: rest ∧ s.pcnt + 1 = s.plen ∧
      t = { latchPayload v (consumeByte rest s) with
            phase := .emit, cur := t.cur, cache := t.cache, rep := t.rep }) ∨
    (∃ d, s.phase = .emit ∧ t = { takePixel d s with phase := t.phase, rep := t.rep, tcnt := t.tcnt } ∧
      (t.tcnt = s.tcnt ∨ t.tcnt = 0) ∧ (t.phase = .emit ∨ t.phase = .tag ∨ t.phase = .trailer)) ∨
    (s.phase = .trailer ∧ s.source.pending = [] ∧ s.source.ended = true ∧
      (t = raise .trailerMismatch s ∨ t = setPhase .done s)) ∨
    (∃ v rest, s.phase = .trailer ∧ s.source.pending = v :: rest ∧
      (t = { consumeByte rest s with tcnt := s.tcnt + 1 } ∨ t = raise .trailerMismatch (consumeByte rest s))) := by
  have hen := enabled_of_step h
  cases hp : s.phase with
  | hdr =>
    rw [step_hdr hen hp] at h
    obtain ⟨e, -⟩ | ⟨e, he⟩ | ⟨v, rest, hsrc, ⟨hc, e⟩ | ⟨hc, e⟩⟩ := headerStep_cases Config.magic s <;> rw [e] at h <;> cases h
    · simp
    · have := byteRead_ended.1 he
      simp [this]
    · right; right; left; exact ⟨v, rest, rfl, hsrc, hc, rfl⟩
    · obtain e | ⟨-, -, -, e⟩ := checkHeader_cases Config.magic (loadHeader (storeHeaderByte v (consumeByte rest s))) <;> rw [e]
      · right; right; right; left; exact ⟨v, rest, rfl, hsrc, hc, rfl⟩
      · right; right; right; right; left; exact ⟨v, rest, rfl, hsrc, hc, rfl⟩
  | tag =>
    rw [step_tag hen hp] at h
    obtain ⟨e, -⟩ | ⟨e, he⟩ | ⟨v, rest, hsrc, ⟨hc, e⟩ | ⟨hc, e⟩⟩ := tagStep_cases s <;> rw [e] at h
    · cases h; simp
    · cases h; have := byteRead_ended.1 he
      simp [this]
    · cases h; right; right; right; right; right; right; left; exact ⟨v, rest, rfl, hsrc, hc, rfl⟩
    · right; right; right; right; right; right; right; left; exact ⟨v, rest, rfl, hsrc, hc, applyChunk_shape (chunkOf_wellFormed _ _) h⟩
  | payload =>
    rw [step_payload hen hp] at h
    obtain ⟨e, -⟩ | ⟨e, he⟩ | ⟨v, rest, hsrc, ⟨hc, e⟩ | ⟨hc, e⟩⟩ := payloadStep_cases s <;> rw [e] at h
    · cases h; simp
    · cases h; have := byteRead_ended.1 he
      simp [this]
    · cases h; iterate 8 right
      left; exact ⟨v, rest, rfl, hsrc, hc, rfl⟩
    · iterate 9 right
      left; exact ⟨v, rest, rfl, hsrc, hc, applyChunk_shape (chunkOf_wellFormed _ _) h⟩
  | emit =>
    rw [step_emit hen hp] at h
    obtain ⟨e, -⟩ | ⟨d, e⟩ := emitStep_cases s <;> rw [e] at h <;> cases h
    · simp
    · iterate 10 right
      left
      obtain ⟨he, e⟩ | ⟨he, hr, e⟩ | ⟨he, hr, e⟩ := afterEmit_cases (takePixel d s) <;> rw [e] <;> exact ⟨d, rfl, rfl, by simp, by simp [hp]⟩
  | trailer =>
    rw [step_trailer hen hp] at h
    obtain ⟨e, -⟩ | ⟨h8, he, e⟩ | ⟨h8, he, e⟩ | ⟨v, rest, hsrc, ⟨h8, hvv, e⟩ | ⟨h8, e⟩⟩ := trailerStep_cases s <;> rw [e] at h <;> cases h
    · simp
    · have := byteRead_ended.1 he
      simp [this]
    · have := byteRead_ended.1 he
      simp [this]
    · iterate 12 right
      exact ⟨v, rest, rfl, hsrc, .inl rfl⟩
    · iterate 12 right
      exact ⟨v, rest, rfl, hsrc, .inr rfl⟩
  | done => simp [step, stepWith, hen, hp] at h; simp [h]
  | error => simp [step, stepWith, hen, hp] at h; simp [h]

/-- A chunk leaves CUR and CACHE alone, or it leaves CUR in its slot (43_index_cache.md R93, 45_run_chunk.md R98). -/
theorem applyChunk_cache {i : Instr} {s t : State} (hi : i.wellFormed = true) (h : applyChunk i s = .next t) :
    (t.cur = s.cur ∧ t.cache = s.cache) ∨ cacheRead (pixelHash t.cur) t = t.cur := by
  obtain ⟨new, -, e⟩ | ⟨n, -, -, e⟩ := applyChunk_cases hi s <;> rw [e] at h <;> cases h
  · exact .inr (cacheRead_commit_pixelHash new s)
  · exact .inl ⟨rfl, rfl⟩

/-- A step leaves CUR and CACHE alone, or it leaves CUR in its slot. -/
theorem step_cache {s t : State} (h : step s = .next t) :
    (t.cur = s.cur ∧ t.cache = s.cache) ∨ cacheRead (pixelHash t.cur) t = t.cur := by
  have hen := enabled_of_step h
  by_cases htag : s.phase = .tag
  · rw [step_tag hen htag] at h
    obtain ⟨e, -⟩ | ⟨e, -⟩ | ⟨v, rest, -, ⟨-, e⟩ | ⟨-, e⟩⟩ := tagStep_cases s <;> rw [e] at h
    · cases h; exact .inl ⟨rfl, rfl⟩
    · cases h; exact .inl ⟨rfl, rfl⟩
    · cases h; exact .inl ⟨rfl, rfl⟩
    · have hc := applyChunk_cache (chunkOf_wellFormed _ _) h
      exact hc
  by_cases hpay : s.phase = .payload
  · rw [step_payload hen hpay] at h
    obtain ⟨e, -⟩ | ⟨e, -⟩ | ⟨v, rest, -, ⟨-, e⟩ | ⟨-, e⟩⟩ := payloadStep_cases s <;> rw [e] at h
    · cases h; exact .inl ⟨rfl, rfl⟩
    · cases h; exact .inl ⟨rfl, rfl⟩
    · cases h; exact .inl ⟨rfl, rfl⟩
    · have hc := applyChunk_cache (chunkOf_wellFormed _ _) h
      exact hc
  left
  obtain e | ⟨-, -, -, e⟩ | ⟨_, _, -, -, -, e⟩ | ⟨_, _, -, -, -, e⟩ | ⟨_, _, -, -, -, e⟩ | ⟨-, -, -, e⟩ | ⟨_, _, hp, -⟩ |
    ⟨_, _, hp, -⟩ | ⟨_, _, hp, -⟩ | ⟨_, _, hp, -⟩ | ⟨_, -, e, -, -⟩ | ⟨-, -, -, e | e⟩ | ⟨_, _, -, -, e | e⟩ := step_cases h
  all_goals first
    | exact ⟨(congrArg State.cur e :), (congrArg State.cache e :)⟩
    | contradiction

/-- The host's run of the machine is `runWith` at the open parameter. -/
theorem core_run_eq_runWith (k : Nat) (s : State) : Host.Core.run Sys2Proof.core k s = runWith Config.magic k s := by
  induction k generalizing s with
  | zero => rfl
  | succ k ih =>
    simp only [Host.Core.run, runWith, Sys2Proof.core, step] at ih ⊢
    cases h : stepWith Config.magic s <;> simp only [ih]

/-- One step and then the rest. -/
theorem runWith_succ {magic : Magic} {k : Nat} {s t : State} (h : stepWith magic s = .next t) :
    runWith magic (k + 1) s = runWith magic k t := by
  simp [runWith, h]

/-- Runs compose. -/
theorem runWith_add {magic : Magic} {j : Nat} {s t : State} (h : runWith magic j s = .next t) (k : Nat) :
    runWith magic (j + k) s = runWith magic k t := by
  induction j generalizing s with
  | zero => cases h; simp
  | succ j ih =>
    rw [Nat.succ_add]
    cases hs : stepWith magic s with
    | next u =>
      rw [runWith_succ hs] at h ⊢
      exact ih h
    | fault f => simp [runWith, hs] at h
    | refused r => simp [runWith, hs] at h

end Sys2Proof.Machine
end

