-- ==== Sys2Proof/Laws/Safety.lean ====
section
/-! SUPPORT. Runs: how `reaches` composes, and the induction that carries an invariant along a run, once. -/
namespace Sys2Proof.Machine

theorem reaches_zero {s t : State} : reaches 0 s t ↔ t = s := by
  exact ⟨fun h => by cases h; rfl, fun h => by subst h; rfl⟩

/-- A run of `k + 1` steps is a step and then a run of `k` steps. -/
theorem reaches_succ {k : Nat} {s t : State} : reaches (k + 1) s t ↔ ∃ u, step s = .next u ∧ reaches k u t := by
  simp only [reaches, core_run_eq_runWith, runWith, step]
  cases stepWith Config.magic s <;> simp

/-- Runs compose. -/
theorem reaches_add {j k : Nat} {s t u : State} (h : reaches j s t) (h' : reaches k t u) : reaches (j + k) s u := by
  simp only [reaches, core_run_eq_runWith] at *
  rw [runWith_add h]
  exact h'

/-- What every step keeps, every run keeps. -/
theorem reaches_invariant {P : State → Prop} (hstep : ∀ s t, P s → step s = .next t → P t) {k : Nat} {s t : State}
    (hs : P s) (h : reaches k s t) : P t := by
  induction k generalizing s with
  | zero => rwa [reaches_zero.1 h]
  | succ k ih =>
    obtain ⟨u, hu, hr⟩ := reaches_succ.1 h
    exact ih (hstep s u hs hu) hr

/-- A state that meets 10_state.md R36 has an enabled step (46_framing.md R103; in DONE and ERROR by log entry 6). -/
theorem State.Inv.enabled {s : State} (h : s.Inv) : enabled s = true := by
  unfold Machine.enabled
  cases hp : s.phase with
  | hdr => simpa using (h.header_phase hp).1
  | tag => simpa using (h.tag_phase hp).1
  | payload =>
    obtain ⟨h1, h2, -⟩ := h.payload_phase hp
    have := plenOf_le s.tag
    rw [← h2] at this
    simp [h1, this]
  | emit => simp [(h.emit_phase hp).1, (h.emit_phase hp).2.2]
  | trailer => simpa using (h.trailer_phase hp).2
  | done => rfl
  | error => rfl

/-- 20_memory.md R51: a column of the image is at its row-major place. -/
theorem DecodedImage.pixelAt_of_lt {img : DecodedImage} {x : Nat} (h : x < img.header.width.toNat) (y : Nat) :
    img.pixelAt x y = img.pixels[y * img.header.width.toNat + x]? :=
  if_pos h

/-- No pixel stands at a column the image does not have (log entry 18). -/
theorem DecodedImage.pixelAt_of_le {img : DecodedImage} {x : Nat} (h : img.header.width.toNat ≤ x) (y : Nat) :
    img.pixelAt x y = none :=
  if_neg (Nat.not_lt.2 h)

/-- The host's operations keep the invariant: it speaks of no source and no demand. -/
theorem State.Inv.supply {s t : State} {bs : List Byte} (h : s.Inv) (ht : s.supply bs = some t) : t.Inv := by
  unfold State.supply at ht
  split at ht
  · cases ht
  · cases ht
    cases h
    constructor <;> assumption

theorem State.Inv.endSource {s : State} (h : s.Inv) : s.endSource.Inv := by
  cases h
  constructor <;> assumption

theorem State.Inv.setDemand {s : State} (h : s.Inv) (d : Demand) : (s.setDemand d).Inv := by
  cases h
  constructor <;> assumption

/-- What every step keeps of the invariant, every move keeps. -/
theorem Moves.inv (hstep : ∀ s t : State, s.Inv → Machine.step s = .next t → t.Inv) {s t : State} (hs : s.Inv)
    (h : Moves s t) : t.Inv := by
  cases h with
  | step ht => exact hstep _ _ hs ht
  | supply ht => exact hs.supply ht
  | endSource => exact hs.endSource
  | setDemand => exact hs.setDemand _

/-- An invariant of the steps that holds after reset holds of every reachable state. -/
theorem Reachable.inv (hreset : ∀ src d s, (State.hostReset src d s).Inv)
    (hstep : ∀ s t : State, s.Inv → Machine.step s = .next t → t.Inv) {s : State} (h : Reachable s) : s.Inv := by
  induction h with
  | reset src d s => exact hreset src d s
  | move _ hm ih => exact Moves.inv hstep ih hm

/-- A run of steps from a reachable state ends in a reachable state. -/
theorem Reachable.run {k : Nat} {s t : State} (hs : Reachable s) (h : reaches k s t) : Reachable t :=
  reaches_invariant (fun _ _ hs ht => hs.move (.step ht)) hs h

/-- A state in which a chunk has been committed is reached from a reset. -/
theorem Committed.reachable {s : State} (h : Committed s) : Reachable s := by
  induction h with
  | chunk hr _ _ ht => exact hr.move (.step ht)
  | move _ hm ih => exact ih.move hm

/-- A move leaves CUR and CACHE alone, or it is a step that leaves CUR in its slot (43_index_cache.md R93). -/
theorem Moves.cache {s t : State} (h : Moves s t) :
    (t.cur = s.cur ∧ t.cache = s.cache) ∨ cacheRead (pixelHash t.cur) t = t.cur := by
  cases h with
  | step ht => exact step_cache ht
  | supply ht =>
    unfold State.supply at ht
    split at ht <;> cases ht
    exact .inl ⟨rfl, rfl⟩
  | endSource => exact .inl ⟨rfl, rfl⟩
  | setDemand => exact .inl ⟨rfl, rfl⟩

/-- Once CUR is in its slot, it stays there (10_state.md R36 item 9). -/
theorem Moves.cached {s t : State} (h : Moves s t) (hs : cacheRead (pixelHash s.cur) s = s.cur) :
    cacheRead (pixelHash t.cur) t = t.cur := by
  obtain ⟨hcur, hcache⟩ | h := h.cache
  · rw [hcur, cacheRead_congr hcache, hs]
  · exact h

end Sys2Proof.Machine
end

