-- ==== Sys2Proof/Tests/Slice0.lean ====
section
/-! SUPPORT. Tests. Every expected value is from spec/95_test_vectors.md (the vector is named at each test) or worked by hand
from the rule named. After them, one witness for the hypotheses of each statement that has any. -/
namespace Sys2Proof.Tests
open Sys2Proof Sys2Proof.Machine

/-! ## WellFormed and the encoder -/

/-- 30_encoding.md R72, R74: RUN(62) and RUN(63) are no terms. -/
theorem test_run62_illFormed : (Instr.run 62).wellFormed = false ∧ encode (.run 62) = none := by decide
theorem test_run63_illFormed : (Instr.run 63).wellFormed = false ∧ encode (.run 63) = none := by decide
theorem test_run61_encodes : (Instr.run 61).wellFormed = true ∧ encode (.run 61) = some [0xFD] := by decide

/-! ## Decoding, by the words of TV-DISP -/

theorem test_decode_rgb : decode [0b11111110, 1, 2, 3, 9] = .ok (.rgb 1 2 3, [9]) := by decide
theorem test_decode_rgba : decode [0b11111111, 1, 2, 3, 4] = .ok (.rgba 1 2 3 4, []) := by decide
theorem test_decode_index : decode [0b00111111] = .ok (.index 63, []) ∧ decode [0b00000000] = .ok (.index 0, []) := by
  decide
theorem test_decode_diff : decode [0b01000000] = .ok (.diff 0 0 0, []) ∧ decode [0b01011011] = .ok (.diff 1 2 3, []) ∧
    decode [0b01111111] = .ok (.diff 3 3 3, []) := by decide
theorem test_decode_luma : decode [0b10000000, 0b00001111] = .ok (.luma 0 0 15, []) ∧
    decode [0b10111111, 0b10010111] = .ok (.luma 63 9 7, []) := by decide
theorem test_decode_run : decode [0b11000000] = .ok (.run 0, []) ∧ decode [0b11111101] = .ok (.run 61, []) := by decide
/-- TV-DOC-6, TV-LUMA-6: too few payload bytes. -/
theorem test_decode_short :
    decode [0xFF, 1, 2, 3] = .error (.shortPayload 0xFF) ∧ decode [0x80] = .error (.shortPayload 0x80) ∧
    decode [] = .error .noTag := by decide
/-- A table word of 40 bits: byte 0 is its least significant byte. -/
theorem test_table_word : decodeTableWord 40 0x04030201FF = some (.rgba 1 2 3 4) ∧
    decodeTableWord 8 0xFE = some (.rgb 0 0 0) := by decide

/-! ## A block in the middle of a decode

A 4x1 image, header passed (14 bytes), one pixel out. Its CUR and cache are those of TV-DOC-3 after the first chunk. -/

/-- A header of a 4x1 image in HBUF; its first four bytes stand for the magic. -/
def headerBytes : Vector Byte 14 := #v[0x71, 0x6F, 0x69, 0x66, 0, 0, 0, 4, 0, 0, 0, 1, 4, 0]

/-- TAG, one of four pixels out. -/
def atTag : State :=
  { State.reset with
    phase := .tag, hdrValid := true, hcnt := 14, hbuf := headerBytes, width := 4, height := 1, channels := 4
    total := 4, emitted := 1, bpos := 19, cur := ⟨10, 20, 30, 255⟩
    cache := State.reset.cache.set 9 ⟨10, 20, 30, 255⟩, out := [⟨10, 20, 30, 255⟩], source := ⟨[], true⟩ }

/-- PAYLOAD, the tag 0xFE of an RGB and its first two bytes taken. -/
def atPayload : State :=
  { atTag with phase := .payload, tag := 0xFE, plen := 3, pcnt := 2, pbuf := #v[0x28, 0x32, 0, 0], bpos := 22 }

/-- EMIT, with `k` repeats owed. -/
def atEmit (k : BitVec 6) : State := { atTag with phase := .emit, rep := k, bpos := 20 }

/-- TRAILER, `k` bytes matched. -/
def atTrailer (k : BitVec 4) : State :=
  { atTag with
    phase := .trailer, emitted := 4, tcnt := k
    out := [⟨10, 20, 30, 255⟩, ⟨10, 20, 30, 255⟩, ⟨10, 20, 30, 255⟩, ⟨10, 20, 30, 255⟩] }

def atDone : State := { atTrailer 8 with phase := .done }
def atError : State := { atTag with phase := .error, err := .truncated }

/-- HDR, thirteen bytes taken, of a header whose first four bytes are `m`. -/
def atHeaderEnd (m : Magic) (w : Byte) : State :=
  { State.reset with
    hcnt := 13, bpos := 13, hbuf := #v[m[0], m[1], m[2], m[3], 0, 0, 0, w, 0, 0, 0, 1, 4, 0], source := ⟨[0], true⟩ }

/-- A state whose source holds `bs` and then `End`. -/
def feed (bs : List Byte) (s : State) : State := { s with source := ⟨bs, true⟩ }

/-- `qoif` (95_test_vectors.md, conventions). -/
def qoif : Magic := #v[0x71, 0x6F, 0x69, 0x66]

/-- One register of the next state, if there is one. -/
def after {α : Type} (f : State → α) (r : Result) : Option α := (next? r).map f

/-! ## One chunk each -/

/-- TV-RGB-2: alpha 0 is carried; the slot is 34. -/
theorem test_rgb : after (fun t => (t.cur, cacheRead 34 t, t.rep)) (exec (.rgb 1 2 3) { atTag with cur := ⟨9, 9, 9, 0⟩ }) =
    some (⟨1, 2, 3, 0⟩, ⟨1, 2, 3, 0⟩, 1) := by decide
/-- TV-DOC-3: the last byte of an RGB applies it. -/
theorem test_rgb_step : after (fun t => (t.cur, t.phase, t.bpos)) (step (feed [0x3C, 7] atPayload)) =
    some (⟨40, 50, 60, 255⟩, .emit, 23) := by decide
/-- TV-RGBA-1. -/
theorem test_rgba : after (fun t => (t.cur, cacheRead 14 t, t.rep)) (exec (.rgba 1 2 3 4) State.reset) =
    some (⟨1, 2, 3, 4⟩, ⟨1, 2, 3, 4⟩, 1) := by decide
/-- TV-RGBA-1, placed from reset. -/
theorem test_rgba_placed : after (fun t => (t.cur, t.phase)) (step (State.reset.withFetchWord 40 0x04030201FF)) =
    some (⟨1, 2, 3, 4⟩, .emit) := by decide
/-- TV-IDX-4: INDEX(5) evicts slot 0. -/
theorem test_index_evicts : after (fun t => (t.cur, cacheRead 0 t))
    (exec (.index 5) (cacheWrite 0 ⟨0, 0, 0, 64⟩ State.reset)) = some (⟨0, 0, 0, 0⟩, ⟨0, 0, 0, 0⟩) := by decide
/-- TV-IDX-5: the stored alpha, not CUR's. -/
theorem test_index_alpha : after (fun t => t.cur)
    (exec (.index 3) { cacheWrite 3 ⟨1, 0, 0, 0⟩ State.reset with cur := ⟨9, 9, 9, 200⟩ }) = some ⟨1, 0, 0, 0⟩ := by decide
/-- TV-DIFF-6: the channels are independent and wrap. -/
theorem test_diff : after (fun t => (t.cur, cacheRead 38 t)) (exec (.diff 0 3 0) State.reset) =
    some (⟨254, 1, 254, 255⟩, ⟨254, 1, 254, 255⟩) := by decide
/-- TV-DIFF-3. -/
theorem test_diff_fields : after (fun t => t.cur) (exec (.diff 1 2 3) { atTag with cur := ⟨100, 100, 100, 7⟩ }) =
    some ⟨99, 100, 101, 7⟩ := by decide
/-- TV-LUMA-3. -/
theorem test_luma_wraps : after (fun t => (t.cur, cacheRead 32 t))
    (exec (.luma 63 15 15) { atTag with cur := ⟨250, 250, 250, 9⟩ }) = some (⟨32, 25, 32, 9⟩, ⟨32, 25, 32, 9⟩) := by decide
/-- TV-LUMA-5: red and blue take different fields. -/
theorem test_luma_fields : after (fun t => t.cur) (exec (.luma 40 0 15) { atTag with cur := ⟨200, 100, 50, 255⟩ }) =
    some ⟨200, 108, 65, 255⟩ := by decide
/-- TV-RUN-2: 62 pixels; CUR and the cache as before. -/
theorem test_run : after (fun t => (t.rep, t.cur, decide (t.cache = State.reset.cache))) (exec (.run 61) State.reset) =
    some (62, ⟨0, 0, 0, 255⟩, true) := by decide
/-- TV-RUN-6: the tag FE is no run. -/
theorem test_fe_is_no_run : after (fun t => (t.phase, t.plen)) (step (feed [0xFE] atTag)) = some (.payload, 3) := by decide

/-! ## The other steps -/

/-- TV-DOC-7 and TV-HASH. -/
theorem test_hash : pixelHash ⟨255, 255, 255, 255⟩ = 38 ∧ pixelHash ⟨0, 0, 0, 255⟩ = 53 ∧ pixelHash ⟨7, 8, 9, 10⟩ = 42 := by
  decide
/-- TV-HDR-6, 7: the fourteenth byte; a big-endian width, and bytes 12 and 13 not checked. -/
theorem test_header_accepted : after (fun t => (t.phase, t.total, headerOf t))
    (stepWith qoif (feed [9] { State.reset with
      hcnt := 13, hbuf := #v[0x71, 0x6F, 0x69, 0x66, 0, 0, 1, 0, 0, 0, 0, 1, 7, 0] })) =
    some (.tag, 256, ⟨256, 1, 7, 9⟩) := by decide
/-- TV-HDR-10: TOTAL needs all 64 bits. -/
theorem test_header_total : after (fun t => t.total)
    (stepWith qoif (feed [0] { State.reset with
      hcnt := 13, hbuf := #v[0x71, 0x6F, 0x69, 0x66, 255, 255, 255, 255, 255, 255, 255, 255, 4, 0] })) =
    some 18446744065119617025 := by decide
/-- TV-HDR-3, 4: another magic; a zero width. -/
theorem test_header_rejected :
    after (fun t => (t.phase, t.err, t.hdrValid)) (stepWith #v[0x71, 0x6F, 0x69, 0x67] (atHeaderEnd qoif 4)) =
      some (.error, .header, false) ∧
    after (fun t => (t.phase, t.err, t.hdrValid)) (stepWith qoif (atHeaderEnd qoif 0)) = some (.error, .header, false) := by
  decide
/-- TV-RUN-3: overshoot ends at TOTAL. -/
theorem test_emit_overshoot : after (fun t => (t.phase, t.rep, t.emitted, t.out.length))
    (step { atEmit 5 with emitted := 3 }) = some (.trailer, 0, 4, 2) := by decide
theorem test_emit_next : after (fun t => (t.phase, t.rep)) (step (atEmit 1)) = some (.tag, 0) ∧
    after (fun t => (t.phase, t.rep)) (step (atEmit 2)) = some (.emit, 1) := by decide
/-- TV-FRM-1, 2, 5. -/
theorem test_trailer : after (fun t => (t.phase, t.tcnt)) (step (feed [1] (atTrailer 7))) = some (.trailer, 8) ∧
    after (fun t => (t.phase, t.err)) (step (feed [2] (atTrailer 7))) = some (.error, .trailerMismatch) ∧
    after (fun t => (t.phase, t.err)) (step (feed [] (atTrailer 8))) = some (.done, .none) ∧
    after (fun t => (t.err, t.bpos)) (step (feed [0xFF] (atTrailer 8))) = some (.trailerMismatch, 20) := by decide
/-- TV-DOC-6: `End` inside a chunk. -/
theorem test_truncated : after (fun t => (t.phase, t.err, t.cur, t.bpos)) (step (feed [] atPayload)) =
    some (.error, .truncated, ⟨10, 20, 30, 255⟩, 22) := by decide

/-- 20_memory.md R51: pixel 3 of a 2x2 image is at column 1 of row 1; no pixel is at column 2. -/
theorem test_pixelAt :
    (DecodedImage.mk ⟨2, 2, 4, 0⟩ [⟨1, 0, 0, 0⟩, ⟨2, 0, 0, 0⟩, ⟨3, 0, 0, 0⟩, ⟨4, 0, 0, 0⟩]).pixelAt 1 1 = some ⟨4, 0, 0, 0⟩ ∧
    (DecodedImage.mk ⟨2, 2, 4, 0⟩ [⟨1, 0, 0, 0⟩, ⟨2, 0, 0, 0⟩, ⟨3, 0, 0, 0⟩, ⟨4, 0, 0, 0⟩]).pixelAt 2 0 = none := by decide

/-! ## Legal states -/

theorem atTag_inv : atTag.Inv := by constructor <;> decide
theorem atPayload_inv : atPayload.Inv := by constructor <;> decide
theorem atEmit_inv : (atEmit 62).Inv := by constructor <;> decide
theorem atTrailer_inv : (atTrailer 8).Inv := by constructor <;> decide
theorem atDone_inv : atDone.Inv := by constructor <;> decide
theorem atError_inv : atError.Inv := by constructor <;> decide
theorem reset_inv : State.reset.Inv := by constructor <;> decide

/-! ## Witnesses: `witness_<Statement>` meets the hypotheses of that statement, and of each of its clauses at the ends of its
range -/

/-- The next state of a step that has one. -/
def stepped (s : State) : State := (next? (step s)).getD s
/-- The next state of a chunk that has one. -/
def ran (i : Instr) (s : State) : State := (next? (exec i s)).getD s

theorem witness_TagDispatchIsTheOpcodeMap : ∀ p : Vector Byte 4,
    chunkOf 0x00 p = .index 0 ∧ chunkOf 0x3F p = .index 63 ∧ chunkOf 0x40 p = .diff 0 0 0 ∧ chunkOf 0x7F p = .diff 3 3 3 ∧
    (∃ x y, chunkOf 0x80 p = .luma 0 x y) ∧ (∃ x y, chunkOf 0xBF p = .luma 63 x y) ∧ chunkOf 0xC0 p = .run 0 ∧
    chunkOf 0xFD p = .run 61 ∧ chunkOf 0xFE p = .rgb p[0] p[1] p[2] ∧ chunkOf 0xFF p = .rgba p[0] p[1] p[2] p[3] :=
  fun _ => ⟨rfl, rfl, rfl, rfl, ⟨_, _, rfl⟩, ⟨_, _, rfl⟩, rfl, rfl, rfl, rfl⟩
theorem witness_EncodingsAreTheTableAndDecodeBack :
    (61#6).toNat ≤ 61 ∧ 61 < (62#6).toNat ∧ encode (.luma 63 9 7) = some [0xBF, 0x97] := by decide
theorem witness_DecodedBytesAreTheEncoding : decode [0xBF, 0x97, 1] = .ok (.luma 63 9 7, [1]) := by decide
theorem witness_HashIsExactInAnyWidthFromSix : 6 ≤ 6 := le_rfl
theorem witness_CacheWriteReplacesOneSlot : (62 : CacheIndex) ≠ 63 := by decide
theorem witness_RunSetsRepOnly : (0#6).toNat ≤ 61 ∧ (61#6).toNat ≤ 61 := by decide
theorem witness_RunOutOfRangeIsRefused : 61 < (62#6).toNat ∧ 61 < (63#6).toNat := by decide
theorem witness_ChunkChangesOnlyCurCacheSlotAndRep :
    exec (.index 9) atTag = .next (ran (.index 9) atTag) ∧ exec (.run 61) atTag = .next (ran (.run 61) atTag) := by and_intros <;> rfl
theorem witness_OnlyRgbaAndIndexChangeAlpha :
    exec (.rgba 1 2 3 4) atTag = .next (ran (.rgba 1 2 3 4) atTag) ∧ (ran (.rgba 1 2 3 4) atTag).cur.a ≠ atTag.cur.a ∧
    exec (.index 0) atTag = .next (ran (.index 0) atTag) ∧ (ran (.index 0) atTag).cur.a ≠ atTag.cur.a := by and_intros <;> first | rfl | decide
theorem witness_IndexReadAndWriteCommute : (⟨10, 20, 30, 255⟩ : Pixel) = cacheRead 9 atTag := by decide
theorem witness_IndexOfClearSlotEvictsSlotZero :
    (5#6) ≠ 0 ∧ cacheRead 5 (cacheWrite 0 ⟨0, 0, 0, 64⟩ State.reset) = ⟨0, 0, 0, 0⟩ := by decide
theorem witness_CommitIsVisibleToNextIndex :
    (∀ n, Instr.diff 1 2 3 ≠ .run n) ∧ exec (.diff 1 2 3) atTag = .next (ran (.diff 1 2 3) atTag) := ⟨nofun, rfl⟩
theorem witness_StepRunsDecodedInstruction :
    ((feed [0x5B] atTag).phase = .tag ∧ enabled (feed [0x5B] atTag) = true ∧
      (feed [0x5B] atTag).source.pending = 0x5B :: [] ∧
      decode ((feed [0x5B] atTag).chunkWith 0x5B) = .ok (.diff 1 2 3, [])) ∧
    ((feed [0x3C] atPayload).phase = .payload ∧ (feed [0x3C] atPayload).plen = plenOf (feed [0x3C] atPayload).tag ∧
      enabled (feed [0x3C] atPayload) = true ∧ (feed [0x3C] atPayload).source.pending = 0x3C :: [] ∧
      decode ((feed [0x3C] atPayload).chunkWith 0x3C) = .ok (.rgb 40 50 60, [])) := by decide
theorem witness_TokenizerLatchesBytes :
    ((feed [0x80, 9] atTag).source.pending = 0x80 :: [9] ∧ (feed [0x80, 9] atTag).phase = .tag ∧
      (feed [0x80, 9] atTag).emitted.toNat < (feed [0x80, 9] atTag).total.toNat ∧ 0x80 ≤ (0x80#8).toNat ∧
      (0xBF#8).toNat ≤ 0xBF ∧ 0xFE ≤ (0xFE#8).toNat) ∧
    ((feed [9] { atPayload with pcnt := 1 }).source.pending = 9 :: [] ∧
      (feed [9] { atPayload with pcnt := 1 }).phase = .payload ∧
      (feed [9] { atPayload with pcnt := 1 }).pcnt.toNat + 1 < (feed [9] { atPayload with pcnt := 1 }).plen.toNat ∧
      (feed [9] { atPayload with pcnt := 1 }).plen.toNat ≤ 4) := by decide
theorem witness_ChunkTakesItsBytesAndIsApplied :
    encode (.luma 33 9 7) = some [0xA1, 0x97] ∧ (feed [0xA1, 0x97, 0x11] atTag).phase = .tag ∧
    (feed [0xA1, 0x97, 0x11] atTag).emitted.toNat < (feed [0xA1, 0x97, 0x11] atTag).total.toNat ∧
    (feed [0xA1, 0x97, 0x11] atTag).source.pending = [0xA1, 0x97] ++ [0x11] ∧
    exec (.luma 33 9 7) (feed [0xA1, 0x97, 0x11] atTag) = .next (ran (.luma 33 9 7) (feed [0xA1, 0x97, 0x11] atTag)) := by
  and_intros <;> first | rfl | decide
theorem witness_EndInsideChunksIsTruncated :
    (atTag.phase = .tag ∧ enabled atTag = true ∧ atTag.source = ⟨[], true⟩) ∧
    (atPayload.phase = .payload ∧ enabled atPayload = true ∧ atPayload.source = ⟨[], true⟩) := by decide
theorem witness_HeaderReaderStep :
    ((feed [] State.reset).phase = .hdr ∧ (feed [] State.reset).hcnt.toNat < 14 ∧
      (feed [] State.reset).source = ⟨[], true⟩) ∧
    ({ feed [7] State.reset with hcnt := 12 }.phase = .hdr ∧ { feed [7] State.reset with hcnt := 12 }.hcnt.toNat < 13 ∧
      { feed [7] State.reset with hcnt := 12 }.source.pending = 7 :: []) ∧
    ((atHeaderEnd qoif 1).phase = .hdr ∧ (atHeaderEnd qoif 1).hcnt.toNat = 13 ∧
      (atHeaderEnd qoif 1).source.pending = 0 :: []) := by decide
theorem magic_eq_literal (m : Magic) : #v[m[0], m[1], m[2], m[3]] = m := by
  obtain ⟨⟨l⟩, h⟩ := m
  match l, h with
  | [_, _, _, _], _ => rfl
/-- The registers after the fourteenth header byte, up to the comparison with the block's magic. -/
def headerLoaded (m : Magic) (w : Byte) : State := loadHeader (storeHeaderByte 0 (consumeByte [] (atHeaderEnd m w)))
theorem headerLoaded_width (m : Magic) (w : Byte) : (headerLoaded m w).width = be32 0 0 0 w := by
  simp [headerLoaded, loadHeader, storeHeaderByte, consumeByte, atHeaderEnd]
theorem headerLoaded_height (m : Magic) (w : Byte) : (headerLoaded m w).height = 1 := by
  simp [headerLoaded, loadHeader, storeHeaderByte, consumeByte, atHeaderEnd, be32]
theorem headerLoaded_magic (m : Magic) (w : Byte) : (headerLoaded m w).hbuf.toList.take 4 = m.toList := by
  obtain ⟨⟨l⟩, h⟩ := m
  match l, h with
  | [_, _, _, _], _ => rfl
theorem stepped_atHeaderEnd (m : Magic) (w : Byte) :
    stepped (atHeaderEnd m w) = checkHeader Config.magic (headerLoaded m w) := rfl
theorem checkHeader_registers (m : Magic) (s : State) :
    (checkHeader m s).hbuf = s.hbuf ∧ (checkHeader m s).width = s.width ∧ (checkHeader m s).height = s.height := by
  unfold checkHeader
  split_ifs <;> exact ⟨rfl, rfl, rfl⟩
/-- Both outcomes of the fourteenth byte, whatever the block's magic is. -/
theorem witness_HeaderReaderStep_outcomes (m : Magic) :
    (stepped (atHeaderEnd m 4)).hbuf.toList.take 4 = m.toList ∧ (stepped (atHeaderEnd m 4)).width ≠ 0 ∧
    (stepped (atHeaderEnd m 4)).height ≠ 0 ∧ (stepped (atHeaderEnd m 0)).width = 0 := by
  simp only [stepped_atHeaderEnd, checkHeader_registers, headerLoaded_width, headerLoaded_height, headerLoaded_magic]
  decide
/-- Whatever the block's magic is: an accepted header when `m` is its magic, an error otherwise. -/
theorem witness_HeaderPhaseTouchesNoPixel (m : Magic) :
    (atHeaderEnd m 4).phase = .hdr ∧ step (atHeaderEnd m 4) = .next (stepped (atHeaderEnd m 4)) ∧
    (m = Config.magic → (stepped (atHeaderEnd m 4)).phase = .tag) := by
  refine ⟨rfl, rfl, ?_⟩
  rintro rfl
  rw [stepped_atHeaderEnd, checkHeader_accepts (magic_eq_literal _) (by rw [headerLoaded_width]; decide)
    (by rw [headerLoaded_height]; decide)]
  rfl
theorem witness_EncodedHeaderIsAccepted : (4#32) ≠ 0 ∧ (1#32) ≠ 0 := by decide
theorem witness_BadHeaderIsHeaderError :
    ([0x71, 0x6F, 0x69, 0x66, 0, 0, 0, 1, 0, 0, 0, 1, 4] : List Byte).length < 14 ∧
    ([Config.magic[0] + 1, 0, 0, 0, 0, 0, 0, 1, 0, 0, 0, 1, 4, 0] : List Byte).take 4 ≠ Config.magic.toList ∧
    (([0x71, 0x6F, 0x69, 0x66, 0, 0, 0, 0, 0, 0, 0, 1, 4, 0] : List Byte).drop 4).take 4 = [0, 0, 0, 0] ∧
    (([0x71, 0x6F, 0x69, 0x66, 0, 0, 0, 1, 0, 0, 0, 0, 4, 0] : List Byte).drop 8).take 4 = [0, 0, 0, 0] := by
  refine ⟨by decide, fun h => ?_, by decide, by decide⟩
  have h0 := congrArg (fun l : List Byte => l.getD 0 0) h
  simp at h0
theorem witness_EmitStepSendsCur :
    ((atEmit 62).phase = .emit ∧ 1 ≤ (atEmit 62).rep.toNat ∧ (atEmit 62).emitted.toNat < (atEmit 62).total.toNat ∧
      (atEmit 62).demand = .always) ∧
    ((atEmit 1).phase = .emit ∧ (atEmit 1).rep.toNat = 1 ∧ (atEmit 1).emitted.toNat + 1 ≠ (atEmit 1).total.toNat ∧
      { atEmit 1 with demand := .count 1 }.demand = .count (0 + 1)) ∧
    { atEmit 5 with emitted := 3 }.emitted.toNat + 1 = { atEmit 5 with emitted := 3 }.total.toNat := by decide
theorem witness_ChunkPixelsGoOutTogether :
    (atEmit 62).demand = .always ∧ min (atEmit 62).rep.toNat ((atEmit 62).total.toNat - (atEmit 62).emitted.toNat) = 3 ∧
    min (atEmit 2).rep.toNat ((atEmit 2).total.toNat - (atEmit 2).emitted.toNat) = 2 := by decide
theorem witness_RunEmitsCopiesOfCur :
    (feed [0xFD, 9] atTag).phase = .tag ∧ (feed [0xFD, 9] atTag).emitted.toNat < (feed [0xFD, 9] atTag).total.toNat ∧
    (feed [0xFD, 9] atTag).demand = .always ∧ (61#6).toNat ≤ 61 ∧
    (feed [0xFD, 9] atTag).source.pending = BitVec.ofNat 8 (0xC0 + (61#6).toNat) :: [9] ∧
    min ((61#6).toNat + 1) ((feed [0xFD, 9] atTag).total.toNat - (feed [0xFD, 9] atTag).emitted.toNat) = 3 := by decide
theorem witness_TrailerStepComparesOneByte :
    (atTrailer 8).phase = .trailer ∧ (atTrailer 8).tcnt.toNat = 8 ∧ (atTrailer 7).tcnt.toNat < 8 ∧
    (feed [] (atTrailer 8)).source = ⟨[], true⟩ ∧ (feed [1] (atTrailer 7)).source.pending = 1 :: [] := by decide
theorem witness_TrailerOutcomes :
    (atTrailer 0).phase = .trailer ∧ (atTrailer 0).tcnt = 0 ∧ (feed [0, 0] (atTrailer 0)).source = ⟨[0, 0], true⟩ ∧
    ([0, 0] : List Byte) = ([0, 0, 0, 0, 0, 0, 0, 1] : List Byte).take 2 ∧
    (([0, 0, 0, 0, 0, 0, 0, 2] : List Byte).take 7 = ([0, 0, 0, 0, 0, 0, 0, 1] : List Byte).take 7 ∧
      ([0, 0, 0, 0, 0, 0, 0, 2] : List Byte)[7]? = some 2) ∧
    ([0, 0, 0, 0, 0, 0, 0, 1, 255] : List Byte).take 8 = [0, 0, 0, 0, 0, 0, 0, 1] := by decide
theorem witness_AbortIsPrecise :
    (step atTag = .next (stepped atTag) ∧ (stepped atTag).phase = .error) ∧
    (step (feed [9] (atTrailer 8)) = .next (stepped (feed [9] (atTrailer 8))) ∧
      (stepped (feed [9] (atTrailer 8))).phase = .error) := by and_intros <;> rfl
/-- The fourteenth header byte of a zero width aborts, whatever the block's magic is. -/
theorem witness_AbortIsPrecise_header (m : Magic) :
    step (atHeaderEnd m 0) = .next (stepped (atHeaderEnd m 0)) ∧ (stepped (atHeaderEnd m 0)).phase = .error := by
  refine ⟨rfl, ?_⟩
  rw [stepped_atHeaderEnd]
  unfold checkHeader
  split_ifs with h1 h2
  · rfl
  · rfl
  all_goals exact absurd (headerLoaded_width m 0) h2
theorem witness_DoneAndErrorLast : atDone.final ∧ atError.final := ⟨.inl rfl, .inr rfl⟩
theorem witness_WaitingChangesNothing :
    (State.reset.phase = .hdr ∧ enabled State.reset = true ∧ State.reset.source = ⟨[], false⟩) ∧
    (enabled { atTag with source := ⟨[], false⟩ } = true ∧ enabled { atPayload with source := ⟨[], false⟩ } = true ∧
      enabled { atTrailer 8 with source := ⟨[], false⟩ } = true) ∧
    ((atEmit 1).phase = .emit ∧ enabled { atEmit 1 with demand := .count 0 } = true) := by decide
theorem witness_StepReadsOneByteOrEmitsOnePixel :
    step (feed [0xC5] atTag) = .next (stepped (feed [0xC5] atTag)) ∧ step (atEmit 2) = .next (stepped (atEmit 2)) ∧
    step (atTrailer 8) = .next (stepped (atTrailer 8)) := by and_intros <;> rfl
theorem witness_StepWritesOnlyItsPhaseRegisters :
    step (feed [0x3C] atPayload) = .next (stepped (feed [0x3C] atPayload)) ∧ step (atEmit 2) = .next (stepped (atEmit 2)) ∧
    step (feed [1] (atTrailer 7)) = .next (stepped (feed [1] (atTrailer 7))) := by and_intros <;> rfl
theorem witness_HeaderIsImmutableOnceValid :
    (atEmit 62).Inv ∧ (atEmit 62).hdrValid = true ∧ reaches 1 (atEmit 62) (stepped (atEmit 62)) :=
  ⟨atEmit_inv, rfl, rfl⟩
theorem witness_UnrecognizedChunkIsNeverRaised :
    step (feed [0xFE] atTag) = .next (stepped (feed [0xFE] atTag)) ∧ atTag.err ≠ .unrecognizedChunk := by and_intros <;> first | rfl | decide
theorem witness_StepDoesNotReadAhead :
    (feed [0x80] atTag).source.pending ≠ [] ∧ step (feed [0x80] atTag) = .next (stepped (feed [0x80] atTag)) := by and_intros <;> first | rfl | decide
theorem witness_ChannelsAndColorspaceNeverMatter :
    { atTag with channels := 7, colorspace := 9, hbuf := (atTag.hbuf.set 12 7).set 13 9 }.dropMeta = atTag.dropMeta ∧
    step atTag = .next (stepped atTag) := by and_intros <;> rfl
theorem witness_UnwrittenSlotsAreNeverRead :
    (feed [0xC0] atTag).Inv ∧
    State.sameWritten (feed [0xC0] atTag) { feed [0xC0] atTag with tag := 0x55, pbuf := #v[1, 2, 3, 4] } ∧
    step (feed [0xC0] atTag) = .next (stepped (feed [0xC0] atTag)) :=
  ⟨by constructor <;> decide, ⟨rfl, fun _ _ => rfl, nofun⟩, rfl⟩
theorem witness_ResetLeavesTheStatedValues :
    State.reset = State.reset ∧ State.reset.source = ⟨[], false⟩ ∧ State.reset.demand = .always := by decide
theorem witness_EveryStepKeepsTheInvariant :
    atDone.Inv ∧ step atDone = .next atDone ∧ (atEmit 62).Inv ∧ step (atEmit 62) = .next (stepped (atEmit 62)) :=
  ⟨atDone_inv, rfl, atEmit_inv, rfl⟩

/-! ### A reachable state past the header

The input of TV-LUMA-4: the header of a 1x1 image, LUMA(33,9,7) and the trailer, with whatever magic the block has. -/

def chunkAndTrailer : List Byte := [0xA1, 0x97] ++ encodeTrailer

/-- HDR, `k` header bytes taken. -/
def atHeader (k : Nat) (buf : Vector Byte 14) (rest : List Byte) : State :=
  { State.reset with hcnt := BitVec.ofNat 4 k, bpos := k, hbuf := buf, source := ⟨rest, true⟩ }
theorem atHeader_step {m : Magic} {v : Byte} {rest : List Byte} {n k : Nat} {buf : Vector Byte 14} (hk : k < 13) :
    runWith m (n + 1) (atHeader k buf (v :: rest)) = runWith m n (atHeader (k + 1) (buf.setIfInBounds k v) rest) := by
  refine runWith_succ ?_
  interval_cases k <;> rfl

def headerOfOne (m : Magic) : Vector Byte 14 := #v[m[0], m[1], m[2], m[3], 0, 0, 0, 1, 0, 0, 0, 1, 4, 0]
theorem headerOfOne_filled (a b c d : Byte) :
    (((((((((((((Vector.replicate 14 (0 : Byte)).setIfInBounds 0 a).setIfInBounds 1 b).setIfInBounds 2 c).setIfInBounds 3
      d).setIfInBounds 4 0).setIfInBounds 5 0).setIfInBounds 6 0).setIfInBounds 7 1).setIfInBounds 8 0).setIfInBounds 9
      0).setIfInBounds 10 0).setIfInBounds 11 1).setIfInBounds 12 4 = #v[a, b, c, d, 0, 0, 0, 1, 0, 0, 0, 1, 4, 0] := by
  simp [← Array.toList_inj, List.replicate_succ, Array.toList_replicate]
theorem loadHeader_atHeader (m : Magic) (rest : List Byte) : loadHeader (atHeader 14 (headerOfOne m) rest) =
    { atHeader 14 (headerOfOne m) rest with width := 1, height := 1, channels := 4 } := by
  simp [loadHeader, atHeader, headerOfOne, be32]
  rfl

/-- TAG, the header of the 1x1 image passed. -/
def passed (m : Magic) : State :=
  { atHeader 14 (headerOfOne m) chunkAndTrailer with
    phase := .tag, hdrValid := true, width := 1, height := 1, channels := 4, total := 1 }
theorem header_passes (m : Magic) : runWith m 14 (startOn (encodeHeader m ⟨1, 1, 4, 0⟩ ++ chunkAndTrailer)) =
    .next (passed m) := by
  have hbytes : startOn (encodeHeader m ⟨1, 1, 4, 0⟩ ++ chunkAndTrailer) = atHeader 0 (Vector.replicate 14 0)
      (m[0] :: m[1] :: m[2] :: m[3] :: 0 :: 0 :: 0 :: 1 :: 0 :: 0 :: 0 :: 1 :: 4 :: 0 :: chunkAndTrailer) := by
    have hm : m.toList = [m[0], m[1], m[2], m[3]] := congrArg Vector.toList (magic_eq_literal m).symm
    rw [encodeHeader, hm]
    rfl
  have hlast : stepWith m (atHeader 13 (headerOfOne m) (0 :: chunkAndTrailer)) =
      .next (checkHeader m (loadHeader (atHeader 14 (headerOfOne m) chunkAndTrailer))) := rfl
  rw [loadHeader_atHeader, checkHeader_accepts (magic_eq_literal m) (by decide : (1#32) ≠ 0) (by decide : (1#32) ≠ 0)] at hlast
  rw [hbytes]
  iterate 13 rw [atHeader_step (by decide)]
  rw [headerOfOne_filled]
  exact runWith_succ hlast

/-- The states after the header: TAG, PAYLOAD, EMIT, TRAILER. -/
def past : Nat → State
  | 0 => passed Config.magic
  | k + 1 => stepped (past k)
theorem past_step : step (past 0) = .next (past 1) ∧ step (past 1) = .next (past 2) ∧ step (past 2) = .next (past 3) :=
  ⟨rfl, rfl, rfl⟩
theorem past_reachable : Reachable (past 0) ∧ Reachable (past 1) ∧ Reachable (past 2) ∧ Reachable (past 3) := by
  have h0 : Reachable (past 0) :=
    (Reachable.reset _ _ _).run ((core_run_eq_runWith 14 _).trans (header_passes Config.magic))
  have h1 := h0.move (.step past_step.1)
  have h2 := h1.move (.step past_step.2.1)
  exact ⟨h0, h1, h2, h2.move (.step past_step.2.2)⟩
/-- Reachable states in TAG, PAYLOAD, EMIT, TRAILER and ERROR, and one in which a chunk has been committed. -/
theorem witness_ReachableStatesMeetTheNineItems :
    (Reachable (past 0) ∧ (past 0).phase = .tag ∧ (past 0).hdrValid = true) ∧
    (Reachable (past 1) ∧ (past 1).phase = .payload) ∧ (Reachable (past 2) ∧ (past 2).phase = .emit) ∧
    (Reachable (past 3) ∧ (past 3).phase = .trailer) ∧
    Reachable (stepped ((State.hostReset ⟨[], false⟩ .always State.reset).setDemand (.count 1)).endSource) ∧
    Committed (past 2) := by
  refine ⟨⟨past_reachable.1, rfl, rfl⟩, ⟨past_reachable.2.1, rfl⟩, ⟨past_reachable.2.2.1, rfl⟩, ⟨past_reachable.2.2.2, rfl⟩, ?_,
    ?_⟩
  · exact .move (.move (.move (.reset ⟨[], false⟩ .always State.reset) .setDemand) .endSource) (.step rfl)
  · exact .chunk (i := .luma 33 9 7) past_reachable.2.1 ⟨0x97, encodeTrailer, .inr rfl, rfl, rfl⟩ nofun past_step.2.1
theorem witness_LegalStatesStepSafely : State.reset.Inv ∧ atPayload.Inv ∧ (atTrailer 8).Inv ∧ atError.Inv :=
  ⟨reset_inv, atPayload_inv, atTrailer_inv, atError_inv⟩
theorem witness_AnsweredDecodesEnd : atTag.Inv ∧ atTag.answered := ⟨atTag_inv, rfl, rfl⟩
theorem witness_ImageExistsOnlyOnSuccess :
    atDone.Inv ∧ imageOf atDone = some ⟨headerOf atDone, atDone.out⟩ ∧ atError.Inv ∧ atError.phase = .error :=
  ⟨atDone_inv, rfl, atError_inv, rfl⟩
theorem witness_ImageIsRowMajor : atDone.Inv ∧ imageOf atDone = some ⟨headerOf atDone, atDone.out⟩ ∧ 3 < atDone.total.toNat :=
  ⟨atDone_inv, rfl, by decide⟩
/-- The three answers of 46_framing.md R106. -/
theorem witness_NextPixelAnswers :
    (nextPixel qoif 1 (atEmit 2)).map Prod.fst = some (.pixel ⟨10, 20, 30, 255⟩) ∧
    (nextPixel qoif 0 atDone).map Prod.fst = some .endOfImage ∧
    (nextPixel qoif 1 (feed [] atTag)).map Prod.fst = some (.error .truncated) := by decide
theorem witness_PlacedWordRunsFirst :
    decodeTableWord 8 0xC0 = some (.run 0) ∧ decodeTableWord 16 0x97A1 = some (.luma 33 9 7) := by decide

end Sys2Proof.Tests
end

section
/-! PROOFS. The invariants of 10_state.md R36: each kind of step keeps them. -/
namespace Sys2Proof.Machine

/-! ### What a legal state is not -/

/-- A legal state outside ERROR has no error (10_state.md R36 item 8). -/
theorem State.Inv.err_none {s : State} (h : s.Inv) (hp : s.phase ≠ .error) : s.err = .none := by
  by_contra he
  exact hp (h.error_iff.2 he)

/-- Once the header is valid, the block has left HDR. -/
theorem State.Inv.phase_ne_hdr {s : State} (h : s.Inv) (hv : s.hdrValid = true) : s.phase ≠ .hdr := by
  intro hp
  obtain ⟨-, hv', -, -⟩ := h.header_phase hp
  exact absurd (hv'.symm.trans hv) nofun

/-- A chunk is read only while a pixel is owed and no repeat is (41_tokenizer.md R82). -/
theorem State.Inv.chunk_phase {s : State} (h : s.Inv) (hp : s.phase = .tag ∨ s.phase = .payload) :
    s.emitted.toNat < s.total.toNat ∧ s.rep = 0 := by
  obtain hp | hp := hp
  · exact h.tag_phase hp
  · exact (h.payload_phase hp).2.2

/-! ### Reset -/

/-- The invariants hold after every reset (10_state.md R35). -/
theorem hostReset_inv (src : Source) (d : Demand) (before : State) : (State.hostReset src d before).Inv where
  header_phase _ := ⟨(by decide : (0#4).toNat < 14), rfl, rfl, rfl⟩
  before_header _ := ⟨rfl, rfl, rfl, rfl⟩
  accepted hp := absurd rfl hp
  read_whole := nofun
  header_registers := nofun
  total_exact := nofun
  emitted_le_total := nofun
  tag_phase := nofun
  emit_phase := nofun
  payload_phase := nofun
  trailer_phase := nofun
  before_trailer _ := rfl
  done_phase := nofun
  error_iff := ⟨nofun, fun he => absurd rfl he⟩
  cache_holds_cur := .inl ⟨rfl, rfl⟩
  out_length := rfl
  header_error := nofun
  truncated_error := nofun
  trailer_error := nofun
  recognized := nofun

/-! ### Aborts -/

/-- An abort with one of the three errors that can arise (60_exceptions.md R107) keeps the invariants. -/
theorem raise_inv {s : State} {e : Err} (h : s.Inv) (he : e ≠ .none) (hu : e ≠ .unrecognizedChunk)
    (hh : e = .header → s.hdrValid = false ∧ s.emitted = 0)
    (ht : e = .truncated → s.hdrValid = true ∧ s.emitted.toNat < s.total.toNat)
    (hm : e = .trailerMismatch → s.hdrValid = true ∧ s.emitted = s.total ∧ s.tcnt.toNat ≤ 8) :
    (raise e s).Inv :=
  { h with
    header_phase := nofun
    accepted := fun _ hp => absurd rfl hp
    tag_phase := nofun
    emit_phase := nofun
    payload_phase := nofun
    trailer_phase := nofun
    before_trailer := nofun
    done_phase := nofun
    error_iff := ⟨fun _ => he, fun _ => rfl⟩
    header_error := hh
    truncated_error := ht
    trailer_error := hm
    recognized := hu }

/-- 20_memory.md R38: past HDR, no invariant speaks of BPOS or of the source. -/
theorem consumeByte_inv {s : State} (h : s.Inv) (hp : s.phase ≠ .hdr) (rest : List Byte) : (consumeByte rest s).Inv :=
  { h with header_phase := fun h0 => absurd h0 hp }

/-! ### HDR -/

/-- 40_header.md R76: a header byte before the fourteenth. -/
theorem storeHeaderByte_inv {s : State} (h : s.Inv) (hp : s.phase = .hdr) (hc : s.hcnt + 1 ≠ 14) (v : Byte)
    (rest : List Byte) : (storeHeaderByte v (consumeByte rest s)).Inv := by
  obtain ⟨hlt, hv, hb, hr⟩ := h.header_phase hp
  have hn : (s.hcnt + 1).toNat = s.hcnt.toNat + 1 := by bv_omega
  have hlt' : (s.hcnt + 1).toNat < 14 := by bv_omega
  have hb' : s.bpos + 1 = (s.hcnt + 1).toNat := by rw [hn, hb]
  exact { h with
    header_phase := fun _ => ⟨hlt', hv, hb', hr⟩
    read_whole := fun hv' => absurd (hv.symm.trans hv') nofun
    header_registers := fun h14 => absurd h14 hc }

/-- The state that the checks of 40_header.md R78 see: the fourteenth header byte `v` is stored (R76) and the header registers
are loaded (R77). -/
def State.headerRead (s : State) (v : Byte) (rest : List Byte) : State :=
  loadHeader (storeHeaderByte v (consumeByte rest s))

/-- 40_header.md R78: the checks raise HEADER. -/
theorem raise_headerRead_inv {s : State} (h : s.Inv) (hp : s.phase = .hdr) (hc : s.hcnt + 1 = 14) (v : Byte)
    (rest : List Byte) : (raise .header (s.headerRead v rest)).Inv := by
  obtain ⟨-, hv, -, -⟩ := h.header_phase hp
  obtain ⟨-, hem, -, -⟩ := h.before_header hv
  exact { h with
    header_phase := nofun
    accepted := fun _ hp => absurd rfl hp
    read_whole := fun _ => hc
    header_registers := fun _ => rfl
    total_exact := fun hv' => absurd (hv.symm.trans hv') nofun
    tag_phase := nofun
    emit_phase := nofun
    payload_phase := nofun
    trailer_phase := nofun
    before_trailer := nofun
    done_phase := nofun
    error_iff := ⟨nofun, fun _ => rfl⟩
    header_error := fun _ => ⟨hv, hem⟩
    truncated_error := nofun
    trailer_error := nofun
    recognized := nofun }

/-- 10_state.md R23: the product of two 32-bit sizes fits the 64 bits of TOTAL. -/
theorem acceptHeader_total_toNat (s : State) : (acceptHeader s).total.toNat = s.width.toNat * s.height.toNat := by
  have hlt : s.width.toNat * s.height.toNat < 2 ^ 32 * 2 ^ 32 := Nat.mul_lt_mul'' s.width.isLt s.height.isLt
  rw [acceptHeader_total, BitVec.toNat_mul, BitVec.toNat_setWidth_of_le (by decide), BitVec.toNat_setWidth_of_le (by decide)]
  exact Nat.mod_eq_of_lt hlt

/-- 40_header.md R78: an accepted header of a nonzero size has a pixel. -/
theorem acceptHeader_total_pos {s : State} (hw : s.width ≠ 0) (hh : s.height ≠ 0) :
    1 ≤ (acceptHeader s).total.toNat := by
  rw [acceptHeader_total_toNat]
  exact Nat.mul_pos (by bv_omega) (by bv_omega)

/-- 40_header.md R78: the checks accept. -/
theorem acceptHeader_headerRead_inv {s : State} (h : s.Inv) (hp : s.phase = .hdr) (hc : s.hcnt + 1 = 14) (v : Byte)
    (rest : List Byte) (hw : (s.headerRead v rest).width ≠ 0) (hh : (s.headerRead v rest).height ≠ 0) :
    (acceptHeader (s.headerRead v rest)).Inv := by
  obtain ⟨-, hv, -, hr⟩ := h.header_phase hp
  obtain ⟨-, hem, -, -⟩ := h.before_header hv
  have herr : s.err = .none := h.err_none (by simp [hp])
  have hpos := acceptHeader_total_pos hw hh
  have hlt : s.emitted.toNat < (acceptHeader (s.headerRead v rest)).total.toNat := by rw [hem]; exact hpos
  exact { h with
    header_phase := nofun
    before_header := nofun
    accepted := fun _ _ => rfl
    read_whole := fun _ => hc
    header_registers := fun _ => rfl
    total_exact := fun _ => ⟨acceptHeader_total_toNat _, hpos⟩
    emitted_le_total := fun _ => hlt.le
    tag_phase := fun _ => ⟨hlt, hr⟩
    emit_phase := nofun
    payload_phase := nofun
    trailer_phase := nofun
    before_trailer := fun _ => h.before_trailer (.inl hp)
    done_phase := nofun
    error_iff := ⟨nofun, fun he => absurd herr he⟩
    header_error := fun he => absurd (herr.symm.trans he) nofun
    truncated_error := fun he => absurd (herr.symm.trans he) nofun
    trailer_error := fun he => absurd (herr.symm.trans he) nofun }

/-! ### TAG and PAYLOAD -/

/-- 41_tokenizer.md R83: a tag that needs payload bytes. -/
theorem latchTag_inv {s : State} (h : s.Inv) (hp : s.phase = .tag) {v : Byte} (hv : plenOf v ≠ 0) (rest : List Byte) :
    (setPhase .payload (latchTag v (plenOf v) (consumeByte rest s))).Inv := by
  obtain ⟨hlt, hr⟩ := h.tag_phase hp
  have herr : s.err = .none := h.err_none (by simp [hp])
  have hpos : (0#3).toNat < (plenOf v).toNat := by bv_omega
  exact { h with
    header_phase := nofun
    accepted := fun _ _ => h.accepted (by simp [hp]) (by simp [hp])
    tag_phase := nofun
    emit_phase := nofun
    payload_phase := fun _ => ⟨hpos, rfl, hlt, hr⟩
    trailer_phase := nofun
    before_trailer := fun _ => h.before_trailer (.inr (.inl hp))
    done_phase := nofun
    error_iff := ⟨nofun, fun he => absurd herr he⟩ }

/-- 41_tokenizer.md R84: a payload byte before the last. -/
theorem latchPayload_inv {s : State} (h : s.Inv) (hp : s.phase = .payload) (hc : s.pcnt + 1 ≠ s.plen) (v : Byte)
    (rest : List Byte) : (latchPayload v (consumeByte rest s)).Inv := by
  obtain ⟨hlt, hpl, hem, hr⟩ := h.payload_phase hp
  have hlt' : (s.pcnt + 1).toNat < s.plen.toNat := by bv_omega
  exact { consumeByte_inv h (by simp [hp]) rest with payload_phase := fun _ => ⟨hlt', hpl, hem, hr⟩ }

/-- A chunk owes at least one pixel and at most 62 (10_state.md R36 item 4). -/
theorem applyChunk_rep {i : Instr} {s t : State} (hi : i.wellFormed = true) (h : applyChunk i s = .next t) :
    1 ≤ t.rep.toNat ∧ t.rep.toNat ≤ 62 := by
  obtain ⟨new, -, e⟩ | ⟨n, -, hn, e⟩ := applyChunk_cases hi s <;> rw [e] at h <;> cases h
  · simp
  · have hrep : (n + 1).toNat = n.toNat + 1 := runCount_toNat hn
    rw [setPhase_rep, hrep]
    omega

/-- 41_tokenizer.md R86: the block enters EMIT with the chunk applied. `u` is `s` after the chunk's last byte: no invariant speaks
of the tokenizer's registers, BPOS or the source in EMIT. -/
theorem applyChunk_inv {i : Instr} {s u t : State} (h : s.Inv) (hp : s.phase = .tag ∨ s.phase = .payload)
    (hu : u = { s with
      tag := u.tag, plen := u.plen, pcnt := u.pcnt, pbuf := u.pbuf, bpos := u.bpos, source := u.source })
    (hi : i.wellFormed = true) (ht : applyChunk i u = .next t) : t.Inv := by
  obtain ⟨hlt, -⟩ := h.chunk_phase hp
  have hne : s.phase ≠ .hdr ∧ s.phase ≠ .error := by obtain hp | hp := hp <;> simp [hp]
  have herr : s.err = .none := h.err_none hne.2
  have hv : s.hdrValid = true := h.accepted hne.1 hne.2
  have htc : s.tcnt = 0 := h.before_trailer (by obtain hp | hp := hp <;> simp [hp])
  have hrep := applyChunk_rep hi ht
  have hcache : (t.cur = Config.initCur ∧ t.cache = Vector.replicate 64 Config.initCacheEntry) ∨
      cacheRead (pixelHash t.cur) t = t.cur := by
    obtain ⟨hcur, hca⟩ | hc := applyChunk_cache hi ht
    · rw [hu] at hcur hca
      rw [hcur, hca, cacheRead_congr hca]
      exact h.cache_holds_cur
    · exact .inr hc
  rw [applyChunk_shape hi ht, hu] at hcache ⊢
  exact { h with
    header_phase := nofun
    before_header := fun hv' => absurd (hv'.symm.trans hv) nofun
    accepted := fun _ _ => hv
    tag_phase := nofun
    emit_phase := fun _ => ⟨hrep.1, hrep.2, hlt⟩
    payload_phase := nofun
    trailer_phase := nofun
    before_trailer := fun _ => htc
    done_phase := nofun
    error_iff := ⟨nofun, fun he => absurd herr he⟩
    cache_holds_cur := hcache }

/-! ### EMIT -/

/-- CUR goes out as pixel number EMITTED (20_memory.md R50), and the block goes on in the phase `p`, whose invariant holds. -/
theorem takePixel_inv {s : State} (h : s.Inv) (hp : s.phase = .emit) (d : Demand) {p : Phase} {r : BitVec 6} {c : BitVec 4}
    (hc : c = 0) (hnext : p = .trailer ∨ p = .tag ∨ p = .emit)
    (htrailer : p = .trailer → s.emitted + 1 = s.total)
    (htag : p = .tag → s.emitted + 1 ≠ s.total ∧ r = 0)
    (hemit : p = .emit → s.emitted + 1 ≠ s.total ∧ 1 ≤ r.toNat ∧ r.toNat ≤ 62) :
    ({ takePixel d s with phase := p, rep := r, tcnt := c } : State).Inv := by
  obtain ⟨-, -, hlt⟩ := h.emit_phase hp
  have herr : s.err = .none := h.err_none (by simp [hp])
  have hv : s.hdrValid = true := h.accepted (by simp [hp]) (by simp [hp])
  have hem : (s.emitted + 1).toNat = s.emitted.toNat + 1 := by bv_omega
  have hlt' : s.emitted + 1 ≠ s.total → (s.emitted + 1).toNat < s.total.toNat := by bv_omega
  have hout : (s.out ++ [s.cur]).length = (s.emitted + 1).toNat := by
    rw [hem, List.length_append, List.length_singleton, h.out_length]
  have hne : p ≠ .hdr ∧ p ≠ .payload ∧ p ≠ .done ∧ p ≠ .error := by obtain rfl | rfl | rfl := hnext <;> simp
  obtain ⟨hhdr, hpay, hdone, herror⟩ := hne
  subst hc
  exact { h with
    header_phase := fun e => absurd e hhdr
    before_header := fun hv' => absurd (hv'.symm.trans hv) nofun
    accepted := fun _ _ => hv
    emitted_le_total := fun _ => hem.trans_le hlt
    tag_phase := fun e => ⟨hlt' (htag e).1, (htag e).2⟩
    emit_phase := fun e => ⟨(hemit e).2.1, (hemit e).2.2, hlt' (hemit e).1⟩
    payload_phase := fun e => absurd e hpay
    trailer_phase := fun e => ⟨htrailer e, Nat.zero_le 8⟩
    before_trailer := fun _ => rfl
    done_phase := fun e => absurd e hdone
    error_iff := ⟨fun e => absurd e herror, fun he => absurd herr he⟩
    out_length := hout
    header_error := fun he => absurd (herr.symm.trans he) nofun
    truncated_error := fun he => absurd (herr.symm.trans he) nofun
    trailer_error := fun he => absurd (herr.symm.trans he) nofun }

/-- 46_framing.md R99: to the trailer, to the next tag, or to the next repeat. -/
theorem afterEmit_takePixel_inv {s : State} (h : s.Inv) (hp : s.phase = .emit) (d : Demand) :
    (afterEmit (takePixel d s)).Inv := by
  obtain ⟨hr1, hr62, -⟩ := h.emit_phase hp
  have htc : s.tcnt = 0 := h.before_trailer (by simp [hp])
  obtain ⟨he, e⟩ | ⟨he, -, e⟩ | ⟨he, hr, e⟩ := afterEmit_cases (takePixel d s) <;> rw [e]
  · exact takePixel_inv h hp d rfl (.inl rfl) (fun _ => he) nofun nofun
  · exact takePixel_inv h hp d htc (.inr (.inl rfl)) nofun (fun _ => ⟨he, rfl⟩) nofun
  · have hsub : (s.rep - 1).toNat = s.rep.toNat - 1 := BitVec.toNat_sub_of_le hr1
    have hne : (s.rep - 1).toNat ≠ 0 := fun h0 => hr (BitVec.eq_of_toNat_eq h0)
    have hr' : 1 ≤ (s.rep - 1).toNat ∧ (s.rep - 1).toNat ≤ 62 := by omega
    exact takePixel_inv h hp d htc (.inr (.inr hp)) (fun e => absurd (hp.symm.trans e) nofun)
      (fun e => absurd (hp.symm.trans e) nofun) fun _ => ⟨he, hr'⟩

/-! ### TRAILER -/

/-- 46_framing.md R101: a byte of the trailer that matches. -/
theorem matchTrailerByte_inv {s : State} (h : s.Inv) (hp : s.phase = .trailer) (h8 : s.tcnt.toNat < 8) (rest : List Byte) :
    ({ consumeByte rest s with tcnt := s.tcnt + 1 } : State).Inv := by
  obtain ⟨hem, -⟩ := h.trailer_phase hp
  have herr : s.err = .none := h.err_none (by simp [hp])
  have h8' : (s.tcnt + 1).toNat ≤ 8 := by bv_omega
  exact { consumeByte_inv h (by simp [hp]) rest with
    trailer_phase := fun _ => ⟨hem, h8'⟩
    before_trailer := fun hp' => by simp [hp] at hp'
    done_phase := fun hp' => absurd (hp.symm.trans hp') nofun
    trailer_error := fun he => absurd (herr.symm.trans he) nofun }

/-- 46_framing.md R101: `End` after the whole trailer. -/
theorem setPhase_done_inv {s : State} (h : s.Inv) (hp : s.phase = .trailer) (h8 : ¬ s.tcnt.toNat < 8) :
    (setPhase .done s).Inv := by
  obtain ⟨hem, hle⟩ := h.trailer_phase hp
  have herr : s.err = .none := h.err_none (by simp [hp])
  have htc : s.tcnt = 8 := by bv_omega
  exact { h with
    header_phase := nofun
    accepted := fun _ _ => h.accepted (by simp [hp]) (by simp [hp])
    tag_phase := nofun
    emit_phase := nofun
    payload_phase := nofun
    trailer_phase := nofun
    before_trailer := nofun
    done_phase := fun _ => ⟨hem, htc, herr⟩
    error_iff := ⟨nofun, fun he => absurd herr he⟩ }

/-- 46_framing.md R101: an abort in the trailer. -/
theorem raise_trailerMismatch_inv {s : State} (h : s.Inv) (hp : s.phase = .trailer) : (raise .trailerMismatch s).Inv :=
  raise_inv h nofun nofun nofun nofun fun _ => ⟨h.accepted (by simp [hp]) (by simp [hp]), h.trailer_phase hp⟩

/-- 41_tokenizer.md R83, R84: `End` inside the chunks. -/
theorem raise_truncated_inv {s : State} (h : s.Inv) (hp : s.phase = .tag ∨ s.phase = .payload) :
    (raise .truncated s).Inv := by
  have hne : s.phase ≠ .hdr ∧ s.phase ≠ .error := by obtain hp | hp := hp <;> simp [hp]
  exact raise_inv h nofun nofun nofun (fun _ => ⟨h.accepted hne.1 hne.2, (h.chunk_phase hp).1⟩) nofun

/-- 40_header.md R76: `End` inside the header. -/
theorem raise_header_inv {s : State} (h : s.Inv) (hp : s.phase = .hdr) : (raise .header s).Inv := by
  obtain ⟨-, hv, -, -⟩ := h.header_phase hp
  obtain ⟨-, hem, -, -⟩ := h.before_header hv
  exact raise_inv h nofun nofun (fun _ => ⟨hv, hem⟩) nofun nofun

/-! ### The step of each phase -/

theorem headerStep_inv {magic : Magic} {s t : State} (h : s.Inv) (hp : s.phase = .hdr) (ht : headerStep magic s = .next t) :
    t.Inv := by
  obtain ⟨e, -⟩ | ⟨e, -⟩ | ⟨v, rest, -, ⟨hc, e⟩ | ⟨hc, e⟩⟩ := headerStep_cases magic s <;> rw [e] at ht <;> cases ht
  · exact h
  · exact raise_header_inv h hp
  · exact storeHeaderByte_inv h hp hc v rest
  · obtain e | ⟨-, hw, hh, e⟩ := checkHeader_cases magic (s.headerRead v rest)
    · exact e ▸ raise_headerRead_inv h hp hc v rest
    · exact e ▸ acceptHeader_headerRead_inv h hp hc v rest hw hh

theorem tagStep_inv {s t : State} (h : s.Inv) (hp : s.phase = .tag) (ht : tagStep s = .next t) : t.Inv := by
  obtain ⟨e, -⟩ | ⟨e, -⟩ | ⟨v, rest, -, ⟨hv, e⟩ | ⟨-, e⟩⟩ := tagStep_cases s <;> rw [e] at ht
  · cases ht; exact h
  · cases ht; exact raise_truncated_inv h (.inl hp)
  · cases ht; exact latchTag_inv h hp hv rest
  · exact applyChunk_inv h (.inl hp) rfl (chunkOf_wellFormed _ _) ht

theorem payloadStep_inv {s t : State} (h : s.Inv) (hp : s.phase = .payload) (ht : payloadStep s = .next t) : t.Inv := by
  obtain ⟨e, -⟩ | ⟨e, -⟩ | ⟨v, rest, -, ⟨hc, e⟩ | ⟨-, e⟩⟩ := payloadStep_cases s <;> rw [e] at ht
  · cases ht; exact h
  · cases ht; exact raise_truncated_inv h (.inr hp)
  · cases ht; exact latchPayload_inv h hp hc v rest
  · exact applyChunk_inv h (.inr hp) rfl (chunkOf_wellFormed _ _) ht

theorem emitStep_inv {s t : State} (h : s.Inv) (hp : s.phase = .emit) (ht : emitStep s = .next t) : t.Inv := by
  obtain ⟨e, -⟩ | ⟨d, e⟩ := emitStep_cases s <;> rw [e] at ht <;> cases ht
  · exact h
  · exact afterEmit_takePixel_inv h hp d

theorem trailerStep_inv {s t : State} (h : s.Inv) (hp : s.phase = .trailer) (ht : trailerStep s = .next t) : t.Inv := by
  obtain ⟨e, -⟩ | ⟨-, -, e⟩ | ⟨h8, -, e⟩ | ⟨v, rest, -, ⟨h8, -, e⟩ | ⟨-, e⟩⟩ := trailerStep_cases s <;>
    rw [e] at ht <;> cases ht
  · exact h
  · exact raise_trailerMismatch_inv h hp
  · exact setPhase_done_inv h hp h8
  · exact matchTrailerByte_inv h hp h8 rest
  · exact raise_trailerMismatch_inv (consumeByte_inv h (by simp [hp]) rest) hp

/-- In DONE and ERROR a step answers the same state (log entry 6). -/
theorem step_final {s : State} (hf : s.final) : step s = .next s := by
  obtain hp | hp := hf <;> simp [step, stepWith, enabled, hp]

/-- Settles O46, by the step of each phase. -/
theorem everyStepKeepsTheInvariant : Obligations.EveryStepKeepsTheInvariant := by
  intro s t h ht
  have hen := h.enabled
  cases hp : s.phase with
  | hdr => exact headerStep_inv h hp (step_hdr hen hp ▸ ht)
  | tag => exact tagStep_inv h hp (step_tag hen hp ▸ ht)
  | payload => exact payloadStep_inv h hp (step_payload hen hp ▸ ht)
  | emit => exact emitStep_inv h hp (step_emit hen hp ▸ ht)
  | trailer => exact trailerStep_inv h hp (step_trailer hen hp ▸ ht)
  | done =>
    cases (step_final (.inl hp)).symm.trans ht
    exact h
  | error =>
    cases (step_final (.inr hp)).symm.trans ht
    exact h

/-- Settles O45. -/
theorem invariantHoldsAfterReset : Obligations.InvariantHoldsAfterReset := fun src d before =>
  ⟨hostReset_inv src d before, hostReset_inv ⟨[], false⟩ .always State.reset⟩

end Sys2Proof.Machine
end

section
/-! PROOFS. What one step can write, phase by phase, and what follows for runs (10_state.md R33, 46_framing.md R103). -/
namespace Sys2Proof.Machine

/-- Settles O36, by the cases of a step. -/
theorem stepReadsOneByteOrEmitsOnePixel : Obligations.StepReadsOneByteOrEmitsOnePixel := by
  intro s t h
  obtain e | ⟨-, hs, he, e⟩ | ⟨v, rest, -, hs, -, e⟩ | ⟨v, rest, -, hs, -, e⟩ | ⟨v, rest, -, hs, -, e⟩ | ⟨-, hs, he, e⟩ |
    ⟨v, rest, -, hs, -, e⟩ | ⟨v, rest, -, hs, -, e⟩ | ⟨v, rest, -, hs, -, e⟩ | ⟨v, rest, -, hs, -, e⟩ | ⟨d, hp, e, -, -⟩ |
    ⟨-, hs, he, e | e⟩ | ⟨v, rest, -, hs, e | e⟩ := step_cases h <;> rw [e]
  · exact .inl rfl
  · exact .inr (.inr (.inr ⟨hs, he, .inr rfl, rfl, rfl, rfl, rfl, rfl⟩))
  · exact .inr (.inl ⟨rfl, ⟨v, hs⟩, rfl, rfl, rfl, rfl⟩)
  · exact .inr (.inl ⟨rfl, ⟨v, hs⟩, rfl, rfl, rfl, rfl⟩)
  · exact .inr (.inl ⟨rfl, ⟨v, hs⟩, rfl, rfl, rfl, rfl⟩)
  · exact .inr (.inr (.inr ⟨hs, he, .inr rfl, rfl, rfl, rfl, rfl, rfl⟩))
  · exact .inr (.inl ⟨rfl, ⟨v, hs⟩, rfl, rfl, rfl, rfl⟩)
  · exact .inr (.inl ⟨rfl, ⟨v, hs⟩, rfl, rfl, rfl, rfl⟩)
  · exact .inr (.inl ⟨rfl, ⟨v, hs⟩, rfl, rfl, rfl, rfl⟩)
  · exact .inr (.inl ⟨rfl, ⟨v, hs⟩, rfl, rfl, rfl, rfl⟩)
  · exact .inr (.inr (.inl ⟨hp, rfl, rfl, rfl, rfl⟩))
  · exact .inr (.inr (.inr ⟨hs, he, .inr rfl, rfl, rfl, rfl, rfl, rfl⟩))
  · exact .inr (.inr (.inr ⟨hs, he, .inl rfl, rfl, rfl, rfl, rfl, rfl⟩))
  · exact .inr (.inl ⟨rfl, ⟨v, hs⟩, rfl, rfl, rfl, rfl⟩)
  · exact .inr (.inl ⟨rfl, ⟨v, hs⟩, rfl, rfl, rfl, rfl⟩)

/-- Settles O37, by the cases of a step. Only the emit step can write TCNT against R33 (log entry 11), and the value it writes is
the value a legal state holds. -/
theorem stepWritesOnlyItsPhaseRegisters : Obligations.StepWritesOnlyItsPhaseRegisters := by
  intro s t h
  obtain e | ⟨hp, -, -, e⟩ | ⟨_, _, hp, -, -, e⟩ | ⟨_, _, hp, -, -, e⟩ | ⟨_, _, hp, -, -, e⟩ | ⟨hp | hp, -, -, e⟩ |
    ⟨_, _, hp, -, -, e⟩ | ⟨_, _, hp, -, -, e⟩ | ⟨_, _, hp, -, -, e⟩ | ⟨_, _, hp, -, -, e⟩ | ⟨_, hp, e, htc, -⟩ |
    ⟨hp, -, -, e | e⟩ | ⟨_, _, hp, -, e | e⟩ := step_cases h <;> rw [e]
  · simp
  pick_goal 11
  · have htc' : s.Inv → t.tcnt = s.tcnt := fun hi =>
      htc.elim id fun h0 => h0.trans (hi.before_trailer (by simp [hp])).symm
    simpa [hp, headerOf] using htc'
  all_goals simp [hp, headerOf]

/-- Settles O38: past HDR no step writes the header registers, HDR_VALID or TOTAL, and a legal state with a valid header is past
HDR. -/
theorem headerIsImmutableOnceValid : Obligations.HeaderIsImmutableOnceValid := by
  intro s t k hs hv h
  have hstep : ∀ u w : State, (u.Inv ∧ headerOf u = headerOf s ∧ u.hdrValid = true ∧ u.total = s.total) →
      step u = .next w → w.Inv ∧ headerOf w = headerOf s ∧ w.hdrValid = true ∧ w.total = s.total := by
    rintro u w ⟨hu, hhead, hval, htot⟩ hw
    obtain ⟨-, hframe, -⟩ := stepWritesOnlyItsPhaseRegisters u w hw
    obtain ⟨hhead', hval', htot', -⟩ := hframe (hu.phase_ne_hdr hval)
    exact ⟨everyStepKeepsTheInvariant u w hu hw, hhead'.trans hhead, hval'.trans hval, htot'.trans htot⟩
  exact (reaches_invariant hstep ⟨hs, rfl, hv, rfl⟩ h).2

/-! ### Enabled steps answer a next state -/

/-- A chunk of the tokenizer's has an effect (30_encoding.md R71). -/
theorem exists_applyChunk {i : Instr} (hi : i.wellFormed = true) (s : State) : ∃ t, applyChunk i s = .next t := by
  obtain ⟨_, -, e⟩ | ⟨_, -, -, e⟩ := applyChunk_cases hi s <;> exact ⟨_, e⟩

/-- An enabled step neither faults nor refuses (46_framing.md R103). -/
theorem exists_step {s : State} (h : enabled s = true) : ∃ t, step s = .next t := by
  cases hp : s.phase with
  | hdr =>
    rw [step_hdr h hp]
    obtain ⟨e, -⟩ | ⟨e, -⟩ | ⟨_, _, -, ⟨-, e⟩ | ⟨-, e⟩⟩ := headerStep_cases Config.magic s <;> exact ⟨_, e⟩
  | tag =>
    rw [step_tag h hp]
    obtain ⟨e, -⟩ | ⟨e, -⟩ | ⟨_, _, -, ⟨-, e⟩ | ⟨-, e⟩⟩ := tagStep_cases s
    · exact ⟨_, e⟩
    · exact ⟨_, e⟩
    · exact ⟨_, e⟩
    · rw [e]
      exact exists_applyChunk (chunkOf_wellFormed _ _) _
  | payload =>
    rw [step_payload h hp]
    obtain ⟨e, -⟩ | ⟨e, -⟩ | ⟨_, _, -, ⟨-, e⟩ | ⟨-, e⟩⟩ := payloadStep_cases s
    · exact ⟨_, e⟩
    · exact ⟨_, e⟩
    · exact ⟨_, e⟩
    · rw [e]
      exact exists_applyChunk (chunkOf_wellFormed _ _) _
  | emit =>
    rw [step_emit h hp]
    obtain ⟨e, -⟩ | ⟨_, e⟩ := emitStep_cases s <;> exact ⟨_, e⟩
  | trailer =>
    rw [step_trailer h hp]
    obtain ⟨e, -⟩ | ⟨-, -, e⟩ | ⟨-, -, e⟩ | ⟨_, _, -, ⟨-, -, e⟩ | ⟨-, e⟩⟩ := trailerStep_cases s <;> exact ⟨_, e⟩
  | done => exact ⟨_, step_final (.inl hp)⟩
  | error => exact ⟨_, step_final (.inr hp)⟩

/-- Settles O48: a legal state's step is enabled, so it answers a state, and that state is legal. -/
theorem legalStatesStepSafely : Obligations.LegalStatesStepSafely := by
  intro s h
  obtain ⟨t, ht⟩ := exists_step h.enabled
  exact ⟨h.enabled, t, ht, everyStepKeepsTheInvariant s t h ht⟩

/-! ### The states that are written out -/

/-- Settles O43. -/
theorem statusAndErrCodes : Obligations.StatusAndErrCodes := by
  refine ⟨fun s => ?_, rfl, rfl, rfl, rfl, rfl⟩
  cases hp : s.phase <;> simp [status, hp, statusOf, statusCode]

/-- 10_state.md R20: every slot of the cache after reset. -/
theorem cacheRead_hostReset (i : CacheIndex) (src : Source) (d : Demand) (before : State) :
    cacheRead i (State.hostReset src d before) = ⟨0, 0, 0, 0⟩ :=
  Vector.getElem_replicate ..

/-- Settles O44: `State.reset` is the reset with its own source and consumer. -/
theorem resetLeavesTheStatedValues : Obligations.ResetLeavesTheStatedValues := by
  intro src d before s h
  have hs : s = State.hostReset src d before := by
    obtain h | ⟨rfl, rfl, rfl⟩ := h
    · exact h
    · rfl
  subst hs
  exact ⟨rfl, rfl, fun i => cacheRead_hostReset i src d before, rfl, rfl, rfl, rfl, rfl, rfl, rfl, rfl, rfl, rfl, rfl, rfl, rfl,
    rfl, rfl, rfl, rfl⟩

end Sys2Proof.Machine
end

section
/-! PROOFS. The chunk that the bytes read so far make up, and the step of its last byte (41_tokenizer.md R83 to R87). -/
namespace Sys2Proof

/-- 30_encoding.md R71, 41_tokenizer.md R87: decoding takes the tag and the payload bytes it needs. -/
theorem decode_cons_ok {b0 : Byte} {bs rest : List Byte} {i : Instr} :
    decode (b0 :: bs) = .ok (i, rest) ↔
      (plenOf b0).toNat ≤ bs.length ∧ chunkOf b0 (payloadOf bs) = i ∧ bs.drop (plenOf b0).toNat = rest := by
  rw [decode]
  split
  · simp; omega
  · simp; omega

/-- A slot of the payload is the byte at its place. -/
theorem payloadOf_getElem (bs : List Byte) (k : Fin 4) : (payloadOf bs)[k] = bs.getD k.val 0 := by
  fin_cases k <;> rfl

end Sys2Proof

namespace Sys2Proof.Machine

/-- 41_tokenizer.md R83, when the source has a byte. -/
theorem tagStep_byte {s : State} {v : Byte} {rest : List Byte} (h : s.source.pending = v :: rest) :
    tagStep s = if plenOf v = 0 then applyChunk (chunkOf v s.pbuf) (latchTag v (plenOf v) (consumeByte rest s))
      else .next (setPhase .payload (latchTag v (plenOf v) (consumeByte rest s))) := by
  rw [tagStep, byteRead_byte.2 ⟨rest, h, rfl⟩]
  rfl

/-- 41_tokenizer.md R84, when the source has a byte. -/
theorem payloadStep_byte {s : State} {v : Byte} {rest : List Byte} (h : s.source.pending = v :: rest) :
    payloadStep s = if s.pcnt + 1 = s.plen then
        applyChunk (chunkOf s.tag (s.pbuf.setIfInBounds s.pcnt.toNat v)) (latchPayload v (consumeByte rest s))
      else .next (latchPayload v (consumeByte rest s)) := by
  rw [payloadStep, byteRead_byte.2 ⟨rest, h, rfl⟩]
  rfl

/-- 41_tokenizer.md R84: PBUF once a byte is stored at `n` holds the bytes before it, and then it. -/
theorem setIfInBounds_getElem_eq_getD (p : Vector Byte 4) {n : Nat} (hn : n < 4) (v : Byte) (k : Fin 4) (hk : k.val < n + 1) :
    (p.setIfInBounds n v)[k] = (p.toList.take n ++ [v]).getD k.val 0 := by
  have hlen : (p.toList.take n).length = n := by simp; omega
  rcases Nat.lt_succ_iff_lt_or_eq.1 hk with hlt | heq
  · rw [List.getD_append _ _ _ _ (by omega)]
    simp [hlt.ne', hlt]
  · rw [List.getD_append_right _ _ _ _ (by omega)]
    simp [heq, hlen]

/-- 41_tokenizer.md R83 to R86: the step that reads the last byte of a chunk applies the chunk that its bytes decode to. -/
theorem step_appliesChunk {s : State} {v : Byte} {rest : List Byte} {i : Instr}
    (hp : s.phase = .tag ∨ (s.phase = .payload ∧ s.plen = plenOf s.tag)) (hen : enabled s = true)
    (hs : s.source.pending = v :: rest) (hd : decode (s.chunkWith v) = .ok (i, [])) :
    step s = applyChunk i (s.chunkRead v rest) := by
  obtain hp | ⟨hp, hpl⟩ := hp
  · rw [State.chunkWith, if_pos hp, decode_cons_ok] at hd
    obtain ⟨hle, rfl, -⟩ := hd
    have h0 : (plenOf v).toNat = 0 := by simpa using hle
    have hc : chunkOf v (payloadOf []) = chunkOf v s.pbuf := chunkOf_congr fun k hk => by omega
    rw [step_tag hen hp, State.chunkRead, if_pos hp, hc, tagStep_byte hs, if_pos (BitVec.eq_of_toNat_eq h0)]
  · have hnt : s.phase ≠ .tag := by simp [hp]
    have hlt : s.pcnt.toNat < s.plen.toNat ∧ s.plen.toNat ≤ 4 := by simpa [enabled, hp] using hen
    rw [State.chunkWith, if_neg hnt, decode_cons_ok, ← hpl] at hd
    obtain ⟨hle, rfl, hdrop⟩ := hd
    have hlen : (s.pbuf.toList.take s.pcnt.toNat ++ [v]).length = s.pcnt.toNat + 1 := by simp; omega
    rw [List.drop_eq_nil_iff, hlen] at hdrop
    have hlast : s.pcnt + 1 = s.plen := by bv_omega
    have hc : chunkOf s.tag (payloadOf (s.pbuf.toList.take s.pcnt.toNat ++ [v])) =
        chunkOf s.tag (s.pbuf.setIfInBounds s.pcnt.toNat v) := chunkOf_congr fun k hk => by
      rw [payloadOf_getElem, setIfInBounds_getElem_eq_getD _ (by omega) _ _ (by rw [← hpl] at hk; omega)]
    rw [step_payload hen hp, State.chunkRead, if_neg hnt, hc, payloadStep_byte hs, if_pos hlast]

/-- 43_index_cache.md R93: once a non-RUN chunk has been applied, CUR is in its slot. -/
theorem cacheRead_applyChunk_of_ne_run {i : Instr} (hi : ∀ n, i ≠ .run n) {s t : State} (h : applyChunk i s = .next t) :
    cacheRead (pixelHash t.cur) t = t.cur := by
  have hwf : i.wellFormed = true := by
    cases i with
    | run n => exact absurd rfl (hi n)
    | _ => rfl
  obtain ⟨new, -, e⟩ | ⟨n, hn, -⟩ := applyChunk_cases hwf s
  · rw [e] at h
    cases h
    exact cacheRead_commit_pixelHash new s
  · exact absurd hn (hi n)

/-! ### Every reachable state -/

theorem Reachable.legal {s : State} (h : Reachable s) : s.Inv :=
  h.inv hostReset_inv everyStepKeepsTheInvariant

/-- 10_state.md R36 item 9. -/
theorem Committed.cached {s : State} (h : Committed s) : cacheRead (pixelHash s.cur) s = s.cur := by
  induction h with
  | chunk hr happ hi ht =>
    obtain ⟨v, rest, hp, hs, hd⟩ := happ
    have hp' := hp.imp_right fun hp => And.intro hp (hr.legal.payload_phase hp).2.1
    rw [step_appliesChunk hp' hr.legal.enabled hs hd] at ht
    exact cacheRead_applyChunk_of_ne_run hi ht
  | move _ hm ih => exact hm.cached ih

/-- Settles O47, from the invariant of every reachable state. -/
theorem reachableStatesMeetTheNineItems : Obligations.ReachableStatesMeetTheNineItems := by
  refine ⟨fun s hs => ?_, fun s hs => hs.cached, ?_⟩
  · have h := hs.legal
    have hacc : s.phase ∈ [Phase.tag, .payload, .emit, .trailer, .done] → s.hdrValid = true := fun hp =>
      h.accepted (by rintro e; simp [e] at hp) (by rintro e; simp [e] at hp)
    exact ⟨fun hp => ⟨hacc hp, (h.total_exact (hacc hp)).2⟩, h.emitted_le_total, h.tag_phase, h.emit_phase,
      fun hp => (h.payload_phase hp).1, h.trailer_phase, h.done_phase, h.error_iff⟩
  · rintro src d before s rfl
    have hhash : pixelHash (State.hostReset src d before).cur = 53 :=
      (by decide : pixelHash Config.initCur = 53)
    rw [hhash]
    exact ⟨rfl, cacheRead_hostReset 53 src d before, by
      rw [cacheRead_hostReset]
      exact (by decide : (⟨0, 0, 0, 0⟩ : Pixel) ≠ Config.initCur)⟩

end Sys2Proof.Machine
end

section
/-! PROOFS. Slots that hold no value influence no step (10_state.md R27, R34): a step from a state with other values there is the
same step with other values there. -/
namespace Sys2Proof.Machine

/-- Values for the registers that can hold no value (10_state.md R34). -/
structure Slots where
  hbuf : Vector Byte 14
  tag : Byte
  plen : BitVec 3
  pcnt : BitVec 3
  pbuf : Vector Byte 4

/-- The state with these values in those registers. -/
def State.setSlots (s : State) (x : Slots) : State :=
  { s with hbuf := x.hbuf, tag := x.tag, plen := x.plen, pcnt := x.pcnt, pbuf := x.pbuf }

/-- The values agree with the state on every slot that holds one (10_state.md R34, R27). -/
structure Slots.Agree (x : Slots) (s : State) : Prop where
  hbuf : ∀ j : Fin 14, j.val < s.hcnt.toNat → x.hbuf[j] = s.hbuf[j]
  chunk : s.phase = .payload →
    x.tag = s.tag ∧ x.plen = s.plen ∧ x.pcnt = s.pcnt ∧ ∀ k : Fin 4, k.val < s.pcnt.toNat → x.pbuf[k] = s.pbuf[k]

/-- States that agree on what is written are one state with other values in the slots. -/
theorem sameWritten_iff {s t : State} : s.sameWritten t ↔ ∃ x : Slots, t = s.setSlots x ∧ x.Agree s := by
  constructor
  · rintro ⟨heq, hbuf, hchunk⟩
    refine ⟨⟨t.hbuf, t.tag, t.plen, t.pcnt, t.pbuf⟩, ?_, hbuf, hchunk⟩
    rw [← heq]
    rfl
  · rintro ⟨x, rfl, hbuf, hchunk⟩
    exact ⟨rfl, hbuf, hchunk⟩

/-- Values that agree still agree after a change that writes none of these registers and does not enter PAYLOAD. -/
theorem Slots.Agree.of_frame {x : Slots} {s t : State} (h : x.Agree s) (hcnt : t.hcnt = s.hcnt) (hbuf : t.hbuf = s.hbuf)
    (hp : t.phase ≠ .payload) : x.Agree t where
  hbuf j hj := by
    rw [hbuf]
    exact h.hbuf j (hcnt ▸ hj)
  chunk hp' := absurd hp' hp

/-- A byte stored at `n` in two buffers that agree below `n` makes them agree through `n`. -/
theorem setIfInBounds_agree {m n : Nat} {p q : Vector Byte m} (h : ∀ j : Fin m, j.val < n → p[j] = q[j]) (v : Byte) (j : Fin m)
    (hj : j.val < n + 1) : (p.setIfInBounds n v)[j] = (q.setIfInBounds n v)[j] := by
  obtain hlt | heq := Nat.lt_succ_iff_lt_or_eq.1 hj
  · simpa [hlt.ne'] using h j hlt
  · simp [heq]

/-! ### The operations do not look at the slots -/

/-- The next state changed by `f`; a stop stays. -/
def mapNext (f : State → State) : Result → Result
  | .next s => .next (f s)
  | .fault r => .fault r
  | .refused r => .refused r

/-- The state after a read changed by `f`; the answer stays. -/
def Read.mapState (f : State → State) : Read → Read
  | .byte v s => .byte v (f s)
  | .ended => .ended
  | .waits => .waits

theorem enabled_setSlots {s : State} {x : Slots} (h : x.Agree s) : enabled (s.setSlots x) = enabled s := by
  cases hp : s.phase with
  | payload =>
    obtain ⟨-, hplen, hpcnt, -⟩ := h.chunk hp
    simp [enabled, State.setSlots, hp, hplen, hpcnt]
  | _ => simp [enabled, State.setSlots, hp]

theorem byteRead_setSlots (s : State) (x : Slots) :
    byteRead (s.setSlots x) = (byteRead s).mapState (State.setSlots · x) := by
  have hs : (s.setSlots x).source = s.source := rfl
  rw [byteRead, byteRead, hs]
  split
  · rfl
  · split <;> rfl

theorem emitCur_setSlots (s : State) (x : Slots) : emitCur (s.setSlots x) = (emitCur s).map (State.setSlots · x) := by
  have hd : (s.setSlots x).demand = s.demand := rfl
  rw [emitCur, emitCur, hd]
  split <;> rfl

theorem exec_setSlots (i : Instr) (s : State) (x : Slots) :
    exec i (s.setSlots x) = mapNext (State.setSlots · x) (exec i s) := by
  cases i with
  | run n =>
    simp only [exec, execRun, apply_ite (mapNext _)]
    rfl
  | _ => rfl

theorem applyChunk_setSlots (i : Instr) (s : State) (x : Slots) :
    applyChunk i (s.setSlots x) = mapNext (State.setSlots · x) (applyChunk i s) := by
  rw [applyChunk, applyChunk, exec_setSlots]
  cases exec i s <;> rfl

/-- 40_header.md R78, once HBUF is whole. -/
theorem checkHeader_setSlots (magic : Magic) {s : State} {x : Slots} (h : x.hbuf = s.hbuf) :
    checkHeader magic (s.setSlots x) = (checkHeader magic s).setSlots x := by
  have hb : (s.setSlots x).hbuf = s.hbuf := h
  simp only [checkHeader, hb, apply_ite (State.setSlots · x)]
  rfl

theorem afterEmit_setSlots (s : State) (x : Slots) : afterEmit (s.setSlots x) = (afterEmit s).setSlots x := by
  simp only [afterEmit, apply_ite (State.setSlots · x)]
  rfl

theorem emitStep_setSlots (s : State) (x : Slots) :
    emitStep (s.setSlots x) = mapNext (State.setSlots · x) (emitStep s) := by
  rw [emitStep, emitStep, emitCur_setSlots]
  cases emitCur s with
  | none => rfl
  | some u => exact congrArg Host.Outcome.next (afterEmit_setSlots u x)

theorem trailerStep_setSlots (s : State) (x : Slots) :
    trailerStep (s.setSlots x) = mapNext (State.setSlots · x) (trailerStep s) := by
  rw [trailerStep, trailerStep, byteRead_setSlots, apply_ite (mapNext _)]
  cases byteRead s with
  | byte v u =>
    simp only [Read.mapState, apply_ite (mapNext _)]
    rfl
  | ended => rfl
  | waits => rfl

/-! ### Each phase -/

theorem byteRead_byte_or_not (s : State) :
    (∃ v rest, s.source.pending = v :: rest ∧ byteRead s = .byte v (consumeByte rest s)) ∨
      byteRead s = .ended ∨ byteRead s = .waits :=
  (byteRead_cases s).imp_right (·.imp (·.2.2) (·.2.2))

/-- A phase step `f` without a byte: `End` aborts with `e` and a wait changes nothing, whatever the slots hold. -/
theorem setSlots_of_no_byte {f : State → Result} {e : Err} {s t : State} {x : Slots}
    (hended : ∀ u, byteRead u = .ended → f u = .next (raise e u)) (hwaits : ∀ u, byteRead u = .waits → f u = .next u)
    (hx : x.Agree s) (h : f s = .next t) (hr : byteRead s = .ended ∨ byteRead s = .waits) :
    ∃ y : Slots, f (s.setSlots x) = .next (t.setSlots y) ∧ y.Agree t := by
  have hr' := byteRead_setSlots s x
  obtain hr | hr := hr <;> rw [hr] at hr'
  · cases (hended s hr).symm.trans h
    exact ⟨x, hended _ hr', hx.of_frame rfl rfl nofun⟩
  · cases (hwaits s hr).symm.trans h
    exact ⟨x, hwaits _ hr', hx⟩

/-- 40_header.md R76 to R78, when the source has a byte. -/
theorem headerStep_byte {magic : Magic} {s : State} {v : Byte} {rest : List Byte} (h : s.source.pending = v :: rest) :
    headerStep magic s = if s.hcnt + 1 = 14 then .next (checkHeader magic (s.headerRead v rest))
      else .next (storeHeaderByte v (consumeByte rest s)) := by
  rw [headerStep, byteRead_byte.2 ⟨rest, h, rfl⟩]
  rfl

/-- 40_header.md R77, once HBUF is whole. -/
theorem loadHeader_setSlots {s : State} {x : Slots} (h : x.hbuf = s.hbuf) :
    loadHeader (s.setSlots x) = (loadHeader s).setSlots x := by
  simp only [loadHeader, State.setSlots, h]

/-- The other values once a header byte `v` is stored at `n` (40_header.md R76). -/
def Slots.storeHeaderByte (x : Slots) (n : Nat) (v : Byte) : Slots := { x with hbuf := x.hbuf.setIfInBounds n v }

/-- The other values once a tag is latched (41_tokenizer.md R83). -/
def Slots.latchTag (x : Slots) (v : Byte) : Slots := { x with tag := v, plen := plenOf v, pcnt := 0 }

/-- The other values once a payload byte is latched (41_tokenizer.md R84). -/
def Slots.latchPayload (x : Slots) (v : Byte) : Slots :=
  { x with pbuf := x.pbuf.setIfInBounds x.pcnt.toNat v, pcnt := x.pcnt + 1 }

theorem storeHeaderByte_setSlots (s : State) (x : Slots) (v : Byte) (rest : List Byte) :
    storeHeaderByte v (consumeByte rest (s.setSlots x)) =
      (storeHeaderByte v (consumeByte rest s)).setSlots (x.storeHeaderByte s.hcnt.toNat v) := rfl

theorem latchTag_setSlots (s : State) (x : Slots) (v : Byte) (rest : List Byte) :
    latchTag v (plenOf v) (consumeByte rest (s.setSlots x)) =
      (latchTag v (plenOf v) (consumeByte rest s)).setSlots (x.latchTag v) := rfl

theorem latchPayload_setSlots (s : State) (x : Slots) (v : Byte) (rest : List Byte) :
    latchPayload v (consumeByte rest (s.setSlots x)) =
      (latchPayload v (consumeByte rest s)).setSlots (x.latchPayload v) := rfl

/-- HDR: the byte is stored at HCNT in both, and after the fourteenth HBUF is written throughout. -/
theorem headerStep_setSlots {magic : Magic} {s t : State} {x : Slots} (hx : x.Agree s) (hp : s.phase = .hdr)
    (hlt : s.hcnt.toNat < 14) (h : headerStep magic s = .next t) :
    ∃ y : Slots, headerStep magic (s.setSlots x) = .next (t.setSlots y) ∧ y.Agree t := by
  obtain ⟨v, rest, hs, -⟩ | hr := byteRead_byte_or_not s
  · have hagree := setIfInBounds_agree hx.hbuf v
    have hcnt : (s.setSlots x).hcnt = s.hcnt := rfl
    have hn : (s.hcnt + 1).toNat = s.hcnt.toNat + 1 := by bv_omega
    rw [headerStep_byte hs] at h
    rw [headerStep_byte (s := s.setSlots x) hs, hcnt, State.headerRead, storeHeaderByte_setSlots]
    refine ⟨x.storeHeaderByte s.hcnt.toNat v, ?_⟩
    split at h <;> cases h
    · rename_i h14
      have hall : (x.storeHeaderByte s.hcnt.toNat v).hbuf = (s.headerRead v rest).hbuf :=
        Vector.ext fun j hj => hagree ⟨j, hj⟩ (by rw [← hn, h14]; exact hj)
      rw [if_pos h14, loadHeader_setSlots (s := storeHeaderByte v (consumeByte rest s)) hall]
      refine ⟨congrArg Host.Outcome.next (checkHeader_setSlots magic hall), ?_⟩
      obtain e | ⟨-, -, -, e⟩ := checkHeader_cases magic (s.headerRead v rest) <;> rw [e]
      · exact ⟨fun j _ => congrArg (·[j]) hall, nofun⟩
      · exact ⟨fun j _ => congrArg (·[j]) hall, nofun⟩
    · rw [if_neg ‹_›]
      exact ⟨rfl, fun j hj => hagree j (hn ▸ hj), fun hp' => absurd (hp.symm.trans hp') nofun⟩
  · exact setSlots_of_no_byte (fun u hu => by rw [headerStep, hu]) (fun u hu => by rw [headerStep, hu]) hx h hr

/-- A chunk applied from other values in the slots leaves them, and the block is past PAYLOAD. -/
theorem applyChunk_setSlots_agree {i : Instr} {s t : State} {x : Slots} (hi : i.wellFormed = true) (hx : x.Agree s)
    (h : applyChunk i s = .next t) : applyChunk i (s.setSlots x) = .next (t.setSlots x) ∧ x.Agree t := by
  constructor
  · rw [applyChunk_setSlots, h]
    rfl
  · rw [applyChunk_shape hi h]
    exact hx.of_frame rfl rfl nofun

/-- TAG: the tag is latched in both, and a chunk of one byte does not look at PBUF. -/
theorem tagStep_setSlots {s t : State} {x : Slots} (hx : x.Agree s) (h : tagStep s = .next t) :
    ∃ y : Slots, tagStep (s.setSlots x) = .next (t.setSlots y) ∧ y.Agree t := by
  obtain ⟨v, rest, hs, -⟩ | hr := byteRead_byte_or_not s
  · have hy : (x.latchTag v).Agree (latchTag v (plenOf v) (consumeByte rest s)) :=
      ⟨hx.hbuf, fun _ => ⟨rfl, rfl, rfl, nofun⟩⟩
    rw [tagStep_byte hs] at h
    rw [tagStep_byte (s := s.setSlots x) hs, latchTag_setSlots]
    refine ⟨x.latchTag v, ?_⟩
    split at h
    · rename_i h0
      have hc : chunkOf v (s.setSlots x).pbuf = chunkOf v s.pbuf := chunkOf_congr fun k hk => by simp [h0] at hk
      rw [if_pos h0, hc]
      exact applyChunk_setSlots_agree (chunkOf_wellFormed _ _) hy h
    · cases h
      rw [if_neg ‹_›]
      exact ⟨rfl, hy.hbuf, fun _ => ⟨rfl, rfl, rfl, nofun⟩⟩
  · exact setSlots_of_no_byte (fun u hu => by rw [tagStep, hu]) (fun u hu => by rw [tagStep, hu]) hx h hr

/-- PAYLOAD: the byte is stored at PCNT in both, and the chunk looks at PBUF below PLEN, which is written then. -/
theorem payloadStep_setSlots {s t : State} {x : Slots} (hx : x.Agree s) (hp : s.phase = .payload)
    (hlt : s.pcnt.toNat < s.plen.toNat) (hpl : s.plen = plenOf s.tag) (h : payloadStep s = .next t) :
    ∃ y : Slots, payloadStep (s.setSlots x) = .next (t.setSlots y) ∧ y.Agree t := by
  obtain ⟨v, rest, hs, -⟩ | hr := byteRead_byte_or_not s
  · obtain ⟨htag, hplen, hpcnt, hpbuf⟩ := hx.chunk hp
    have hagree := setIfInBounds_agree hpbuf v
    have hn : (s.pcnt + 1).toNat = s.pcnt.toNat + 1 := by bv_omega
    have hy : (x.latchPayload v).Agree (latchPayload v (consumeByte rest s)) :=
      ⟨hx.hbuf, fun _ => ⟨htag, hplen, congrArg (· + 1) hpcnt, fun k hk => by
        rw [Slots.latchPayload, hpcnt]
        exact hagree k (hn ▸ hk)⟩⟩
    have htag' : (s.setSlots x).tag = s.tag := htag
    have hplen' : (s.setSlots x).plen = s.plen := hplen
    have hpcnt' : (s.setSlots x).pcnt = s.pcnt := hpcnt
    rw [payloadStep_byte hs] at h
    rw [payloadStep_byte (s := s.setSlots x) hs, latchPayload_setSlots, htag', hplen', hpcnt']
    refine ⟨x.latchPayload v, ?_⟩
    split at h
    · rename_i hlast
      have hc : chunkOf s.tag ((s.setSlots x).pbuf.setIfInBounds s.pcnt.toNat v) =
          chunkOf s.tag (s.pbuf.setIfInBounds s.pcnt.toNat v) :=
        chunkOf_congr fun k hk => hagree k (by rw [← hn, hlast, hpl]; exact hk)
      rw [if_pos hlast, hc]
      exact applyChunk_setSlots_agree (chunkOf_wellFormed _ _) hy h
    · cases h
      rw [if_neg ‹_›]
      exact ⟨rfl, hy⟩
  · exact setSlots_of_no_byte (fun u hu => by rw [payloadStep, hu]) (fun u hu => by rw [payloadStep, hu]) hx h hr

/-- PAYLOAD is entered from TAG alone (41_tokenizer.md R83). -/
theorem step_phase_ne_payload {s t : State} (h : step s = .next t) (htag : s.phase ≠ .tag) (hpay : s.phase ≠ .payload) :
    t.phase ≠ .payload := by
  obtain e | ⟨-, -, -, e⟩ | ⟨_, _, hp, -, -, e⟩ | ⟨_, _, -, -, -, e⟩ | ⟨_, _, -, -, -, e⟩ | ⟨-, -, -, e⟩ | ⟨_, _, hp, -⟩ |
    ⟨_, _, hp, -⟩ | ⟨_, _, hp, -⟩ | ⟨_, _, hp, -⟩ | ⟨_, -, -, -, ht⟩ | ⟨-, -, -, e | e⟩ | ⟨_, _, hp, -, e | e⟩ := step_cases h
  · rwa [e]
  · simp [e]
  · simp [e, hp]
  · simp [e]
  · simp [e]
  · simp [e]
  · exact absurd hp htag
  · exact absurd hp htag
  · exact absurd hp hpay
  · exact absurd hp hpay
  · obtain ht | ht | ht := ht <;> simp [ht]
  · simp [e]
  · simp [e]
  · simp [e, hp]
  · simp [e]

/-- TRAILER, EMIT, DONE and ERROR neither read nor write a slot. -/
theorem step_setSlots_of_quiet {s t : State} {x : Slots} (hx : x.Agree s) (h : step s = .next t)
    (hhdr : s.phase ≠ .hdr) (htag : s.phase ≠ .tag) (hpay : s.phase ≠ .payload) :
    step (s.setSlots x) = .next (t.setSlots x) ∧ x.Agree t := by
  have hen := enabled_of_step h
  have hen' := (enabled_setSlots hx).trans hen
  obtain ⟨-, hframe, -⟩ := stepWritesOnlyItsPhaseRegisters s t h
  obtain ⟨-, -, -, hcnt, hbuf⟩ := hframe hhdr
  refine ⟨?_, hx.of_frame hcnt hbuf (step_phase_ne_payload h htag hpay)⟩
  cases hp : s.phase with
  | emit => rw [step_emit (s := s.setSlots x) hen' hp, emitStep_setSlots, ← step_emit hen hp, h]; rfl
  | trailer => rw [step_trailer (s := s.setSlots x) hen' hp, trailerStep_setSlots, ← step_trailer hen hp, h]; rfl
  | done =>
    cases (step_final (.inl hp)).symm.trans h
    exact step_final (s := s.setSlots x) (.inl hp)
  | error =>
    cases (step_final (.inr hp)).symm.trans h
    exact step_final (s := s.setSlots x) (.inr hp)
  | hdr => exact absurd hp hhdr
  | tag => exact absurd hp htag
  | payload => exact absurd hp hpay

/-- Settles O42, by the step of each phase. -/
theorem unwrittenSlotsAreNeverRead : Obligations.UnwrittenSlotsAreNeverRead := by
  intro s s' t hs hsame h
  obtain ⟨x, rfl, hx⟩ := sameWritten_iff.1 hsame
  have hen := hs.enabled
  have hen' := (enabled_setSlots hx).trans hen
  suffices hgoal : ∃ y : Slots, step (s.setSlots x) = .next (t.setSlots y) ∧ y.Agree t by
    obtain ⟨y, hy, hagree⟩ := hgoal
    exact ⟨_, hy, sameWritten_iff.2 ⟨y, rfl, hagree⟩⟩
  by_cases hhdr : s.phase = .hdr
  · rw [step_hdr hen hhdr] at h
    rw [step_hdr (s := s.setSlots x) hen' hhdr]
    exact headerStep_setSlots hx hhdr (hs.header_phase hhdr).1 h
  by_cases htag : s.phase = .tag
  · rw [step_tag hen htag] at h
    rw [step_tag (s := s.setSlots x) hen' htag]
    exact tagStep_setSlots hx h
  by_cases hpay : s.phase = .payload
  · obtain ⟨hlt, hpl, -, -⟩ := hs.payload_phase hpay
    rw [step_payload hen hpay] at h
    rw [step_payload (s := s.setSlots x) hen' hpay]
    exact payloadStep_setSlots hx hpay hlt hpl h
  · exact ⟨x, step_setSlots_of_quiet hx h hhdr htag hpay⟩

end Sys2Proof.Machine
end

section
/-! PROOFS. The block's three spaces (20_memory.md): the cache, the output sequence as an image, and the byte source, on which
a step that waits changes nothing and which no step reads ahead. -/
namespace Sys2Proof.Machine

/-! ### The cache -/

/-- Settles O7. -/
theorem cacheWriteReplacesOneSlot : Obligations.CacheWriteReplacesOneSlot := by
  refine ⟨fun i p s => ?_, fun i j p s hne => ?_, fun i => cacheRead_hostReset i ⟨[], false⟩ .always State.reset⟩
  · rw [cacheRead_cacheWrite, if_pos rfl]
  · rw [cacheRead_cacheWrite, if_neg hne]

/-! ### The image -/

/-- 46_framing.md R105: an image is DONE's header and output. -/
theorem imageOf_eq_some {s : State} {img : DecodedImage} :
    imageOf s = some img ↔ s.phase = .done ∧ img = ⟨headerOf s, s.out⟩ := by
  by_cases hp : s.phase = .done
  · simp [imageOf, hp, eq_comm]
  · simp [imageOf, hp]

/-- In DONE the consumer has taken every pixel of the exact product (10_state.md R23, R36 item 7). -/
theorem State.Inv.done_total {s : State} (h : s.Inv) (hp : s.phase = .done) :
    s.out.length = s.total.toNat ∧ s.total.toNat = s.width.toNat * s.height.toNat := by
  obtain ⟨hem, -, -⟩ := h.done_phase hp
  have hv : s.hdrValid = true := h.accepted (by simp [hp]) (by simp [hp])
  exact ⟨by rw [h.out_length, hem], (h.total_exact hv).1⟩

/-- Settles O53: `k` is `k mod WIDTH` columns past `k div WIDTH` whole rows. -/
theorem imageIsRowMajor : Obligations.ImageIsRowMajor := by
  intro s img k h himg hk
  obtain ⟨hp, rfl⟩ := imageOf_eq_some.1 himg
  obtain ⟨hlen, htotal⟩ := h.done_total hp
  have hk' : k < s.width.toNat * s.height.toNat := htotal ▸ hk
  have hw : 0 < s.width.toNat := Nat.pos_of_mul_pos_right (Nat.zero_lt_of_lt hk')
  have hplace : s.out[k]? = some (s.out[k]'(hlen ▸ hk)) := List.getElem?_eq_getElem _
  refine ⟨s.out[k]'(hlen ▸ hk), hplace, ?_, Nat.div_lt_of_lt_mul hk'⟩
  calc DecodedImage.pixelAt ⟨headerOf s, s.out⟩ (k % s.width.toNat) (k / s.width.toNat)
    _ = s.out[k / s.width.toNat * s.width.toNat + k % s.width.toNat]? :=
      DecodedImage.pixelAt_of_lt (img := ⟨headerOf s, s.out⟩) (Nat.mod_lt k hw) _
    _ = some (s.out[k]'(hlen ▸ hk)) := by rw [Nat.div_add_mod', hplace]

/-! ### Waiting -/

/-- Settles O35, phase by phase: the ByteRead or the Emit has no answer. -/
theorem waitingChangesNothing : Obligations.WaitingChangesNothing := by
  rintro s hen (⟨hp, hs⟩ | ⟨hp, hd⟩)
  · have hr : byteRead s = .waits := byteRead_waits.2 ⟨congrArg Source.pending hs, congrArg Source.ended hs⟩
    obtain hp | hp | hp | hp := hp
    · rw [step_hdr hen hp, headerStep, hr]
    · rw [step_tag hen hp, tagStep, hr]
    · rw [step_payload hen hp, payloadStep, hr]
    · rw [step_trailer hen hp, trailerStep, hr, ite_self]
  · rw [step_emit hen hp, emitStep, emitCur, hd]

/-! ### No read-ahead -/

/-- The state with `extra` after the bytes its source holds, whether or not the source has ended (`State.supply` asks that it has
not). -/
def State.appendSource (extra : List Byte) (s : State) : State :=
  { s with source := ⟨s.source.pending ++ extra, s.source.ended⟩ }

theorem pending_appendSource {s : State} {v : Byte} {rest : List Byte} (h : s.source.pending = v :: rest) (extra : List Byte) :
    (s.appendSource extra).source.pending = v :: (rest ++ extra) :=
  congrArg (· ++ extra) h

theorem enabled_appendSource (extra : List Byte) (s : State) : enabled (s.appendSource extra) = enabled s := rfl

theorem exec_appendSource (i : Instr) (extra : List Byte) (s : State) :
    exec i (s.appendSource extra) = mapNext (State.appendSource extra) (exec i s) := by
  cases i with
  | run n =>
    simp only [exec, execRun, apply_ite (mapNext _)]
    rfl
  | _ => rfl

theorem applyChunk_appendSource (i : Instr) (extra : List Byte) (s : State) :
    applyChunk i (s.appendSource extra) = mapNext (State.appendSource extra) (applyChunk i s) := by
  rw [applyChunk, applyChunk, exec_appendSource]
  cases exec i s <;> rfl

theorem checkHeader_appendSource (magic : Magic) (extra : List Byte) (s : State) :
    checkHeader magic (s.appendSource extra) = (checkHeader magic s).appendSource extra := by
  simp only [checkHeader, apply_ite (State.appendSource extra)]
  rfl

theorem emitCur_appendSource (extra : List Byte) (s : State) :
    emitCur (s.appendSource extra) = (emitCur s).map (State.appendSource extra) := by
  have hd : (s.appendSource extra).demand = s.demand := rfl
  rw [emitCur, emitCur, hd]
  split <;> rfl

theorem afterEmit_appendSource (extra : List Byte) (s : State) :
    afterEmit (s.appendSource extra) = (afterEmit s).appendSource extra := by
  simp only [afterEmit, apply_ite (State.appendSource extra)]
  rfl

theorem emitStep_appendSource (extra : List Byte) (s : State) :
    emitStep (s.appendSource extra) = mapNext (State.appendSource extra) (emitStep s) := by
  rw [emitStep, emitStep, emitCur_appendSource]
  cases emitCur s with
  | none => rfl
  | some u => exact congrArg Host.Outcome.next (afterEmit_appendSource extra u)

/-- 46_framing.md R101, when the source has a byte. -/
theorem trailerStep_byte {s : State} {v : Byte} {rest : List Byte} (h : s.source.pending = v :: rest) :
    trailerStep s = if s.tcnt.toNat < 8 ∧ v = trailerByte s.tcnt then .next { consumeByte rest s with tcnt := s.tcnt + 1 }
      else .next (raise .trailerMismatch (consumeByte rest s)) := by
  rw [trailerStep, byteRead_byte.2 ⟨rest, h, rfl⟩, ite_and]
  rfl

section
variable {s : State} {v : Byte} {rest : List Byte} (h : s.source.pending = v :: rest) (extra : List Byte)
include h

theorem headerStep_appendSource (magic : Magic) :
    headerStep magic (s.appendSource extra) = mapNext (State.appendSource extra) (headerStep magic s) := by
  rw [headerStep_byte h, headerStep_byte (pending_appendSource h extra), apply_ite (mapNext _), mapNext,
    ← checkHeader_appendSource]
  rfl

theorem tagStep_appendSource :
    tagStep (s.appendSource extra) = mapNext (State.appendSource extra) (tagStep s) := by
  rw [tagStep_byte h, tagStep_byte (pending_appendSource h extra), apply_ite (mapNext _), ← applyChunk_appendSource]
  rfl

theorem payloadStep_appendSource :
    payloadStep (s.appendSource extra) = mapNext (State.appendSource extra) (payloadStep s) := by
  rw [payloadStep_byte h, payloadStep_byte (pending_appendSource h extra), apply_ite (mapNext _), ← applyChunk_appendSource]
  rfl

theorem trailerStep_appendSource :
    trailerStep (s.appendSource extra) = mapNext (State.appendSource extra) (trailerStep s) := by
  rw [trailerStep_byte h, trailerStep_byte (pending_appendSource h extra), apply_ite (mapNext _)]
  rfl

/-- An enabled step with a byte at hand is the same step with more bytes after that one. -/
theorem step_appendSource (hen : enabled s = true) :
    step (s.appendSource extra) = mapNext (State.appendSource extra) (step s) := by
  have hen' : enabled (s.appendSource extra) = true := (enabled_appendSource extra s).trans hen
  cases hp : s.phase with
  | hdr => rw [step_hdr hen hp, step_hdr hen' hp, headerStep_appendSource h]
  | tag => rw [step_tag hen hp, step_tag hen' hp, tagStep_appendSource h]
  | payload => rw [step_payload hen hp, step_payload hen' hp, payloadStep_appendSource h]
  | emit => rw [step_emit hen hp, step_emit hen' hp, emitStep_appendSource]
  | trailer => rw [step_trailer hen hp, step_trailer hen' hp, trailerStep_appendSource h]
  | done => rw [step_final (.inl hp), step_final (s := s.appendSource extra) (.inl hp), mapNext]
  | error => rw [step_final (.inr hp), step_final (s := s.appendSource extra) (.inr hp), mapNext]

end

/-- Settles O40: a step commutes with appending bytes to a source that has one. -/
theorem stepDoesNotReadAhead : Obligations.StepDoesNotReadAhead := by
  intro s t extra hne h
  obtain ⟨v, rest, hs⟩ := List.exists_cons_of_ne_nil hne
  exact (step_appendSource hs extra (enabled_of_step h)).trans (congrArg (mapNext _) h)

end Sys2Proof.Machine
end

section
/-! PROOFS. Bytes and chunks: the tag map, the encoding table, and decoding as the inverse of encoding (30_encoding.md). -/
namespace Sys2Proof
open Laws.EncodedLength (plenOf_index plenOf_diff plenOf_luma plenOf_run)

/-! ### Fields side by side -/

/-- Two fields side by side, as a number (30_encoding.md R69). -/
theorem append_toNat_eq_add {m n : Nat} (x : BitVec m) (y : BitVec n) : (x ++ y).toNat = x.toNat * 2 ^ n + y.toNat := by
  rw [BitVec.toNat_append, ← Nat.shiftLeft_add_eq_or_of_lt y.isLt, Nat.shiftLeft_eq]

theorem append_eq_ofNat {m n : Nat} (x : BitVec m) (y : BitVec n) :
    x ++ y = BitVec.ofNat (m + n) (x.toNat * 2 ^ n + y.toNat) := by
  rw [← append_toNat_eq_add, BitVec.ofNat_toNat, BitVec.setWidth_eq]

/-! The bytes of 30_encoding.md R74's table as numbers. -/

theorem indexTag_eq_ofNat (i : BitVec 6) : 0b00#2 ++ i = BitVec.ofNat 8 i.toNat := by
  rw [append_eq_ofNat]
  simp

theorem diffTag_eq_ofNat (dr dg db : BitVec 2) :
    0b01#2 ++ dr ++ dg ++ db = BitVec.ofNat 8 (0x40 + dr.toNat * 16 + dg.toNat * 4 + db.toNat) := by
  rw [append_eq_ofNat, append_toNat_eq_add, append_toNat_eq_add]
  congr 1
  simp
  omega

theorem lumaTag_eq_ofNat (dg : BitVec 6) : 0b10#2 ++ dg = BitVec.ofNat 8 (0x80 + dg.toNat) :=
  append_eq_ofNat _ _

theorem lumaPayload_eq_ofNat (drdg dbdg : BitVec 4) :
    drdg ++ dbdg = BitVec.ofNat 8 (drdg.toNat * 16 + dbdg.toNat) :=
  append_eq_ofNat _ _

theorem runTag_eq_ofNat (n : BitVec 6) : 0b11#2 ++ n = BitVec.ofNat 8 (0xC0 + n.toNat) :=
  append_eq_ofNat _ _

/-- The four fields of DIFF's tag (30_encoding.md R66). -/
theorem diffTag_fields (t dr dg db : BitVec 2) :
    (t ++ dr ++ dg ++ db).extractLsb' 6 2 = t ∧ (t ++ dr ++ dg ++ db).extractLsb' 4 2 = dr ∧
    (t ++ dr ++ dg ++ db).extractLsb' 2 2 = dg ∧ (t ++ dr ++ dg ++ db).extractLsb' 0 2 = db := by
  refine ⟨?_, ?_, ?_, BitVec.extractLsb'_append_eq_right⟩
  · rw [BitVec.extractLsb'_append_eq_of_le (by decide), BitVec.extractLsb'_append_eq_of_le (by decide)]
    exact BitVec.extractLsb'_append_eq_left
  · rw [BitVec.extractLsb'_append_eq_of_le (by decide), BitVec.extractLsb'_append_eq_of_le (by decide)]
    exact BitVec.extractLsb'_append_eq_right
  · rw [BitVec.extractLsb'_append_eq_of_le (by decide)]
    exact BitVec.extractLsb'_append_eq_right

/-- The slots of four bytes. -/
theorem toList_four (p : Vector Byte 4) : p.toList = [p[0], p[1], p[2], p[3]] := by
  obtain ⟨⟨l⟩, hl⟩ := p
  match l, hl with
  | [_, _, _, _], _ => rfl

/-- A byte is its four 2-bit fields side by side. -/
theorem append_diffTag_fields (b : Byte) :
    b.extractLsb' 6 2 ++ b.extractLsb' 4 2 ++ b.extractLsb' 2 2 ++ b.extractLsb' 0 2 = b := by
  rw [BitVec.extractLsb'_append_extractLsb'_eq_extractLsb' (start₁ := 4) (len₁ := 2) rfl,
    BitVec.extractLsb'_append_extractLsb'_eq_extractLsb' (start₁ := 2) (len₁ := 2) rfl]
  exact BitVec.extractLsb'_append_extractLsb' (w := 6) (len := 2)

/-- Neither full-byte tag is a tag of INDEX, DIFF or LUMA (30_encoding.md R61). -/
theorem ne_fullByteTag {b : Byte} (h : b.extractLsb' 6 2 ≠ 0b11#2) : b ≠ 0xFE ∧ b ≠ 0xFF :=
  ⟨by rintro rfl; exact h (by decide), by rintro rfl; exact h (by decide)⟩

section
variable {b : Byte} (p : Vector Byte 4)

theorem chunkOf_index {i : BitVec 6} (hb : 0b00#2 ++ i = b) : chunkOf b p = .index i := by
  subst hb
  have htop : (0b00#2 ++ i : Byte).extractLsb' 6 2 = 0b00#2 := BitVec.extractLsb'_append_eq_left
  have hfield : (0b00#2 ++ i : Byte).extractLsb' 0 6 = i := BitVec.extractLsb'_append_eq_right
  obtain ⟨hfe, hff⟩ := ne_fullByteTag (b := 0b00#2 ++ i) (by rw [htop]; decide)
  rw [chunkOf, if_neg hfe, if_neg hff, if_pos htop, hfield]

theorem chunkOf_diff {dr dg db : BitVec 2} (hb : 0b01#2 ++ dr ++ dg ++ db = b) : chunkOf b p = .diff dr dg db := by
  subst hb
  obtain ⟨htop, hdr, hdg, hdb⟩ := diffTag_fields 0b01#2 dr dg db
  obtain ⟨hfe, hff⟩ := ne_fullByteTag (b := 0b01#2 ++ dr ++ dg ++ db) (by rw [htop]; decide)
  rw [chunkOf, if_neg hfe, if_neg hff, htop, if_neg (by decide), if_pos rfl, hdr, hdg, hdb]

theorem chunkOf_luma {dg : BitVec 6} (hb : 0b10#2 ++ dg = b) :
    chunkOf b p = .luma dg (p[0].extractLsb' 4 4) (p[0].extractLsb' 0 4) := by
  subst hb
  have htop : (0b10#2 ++ dg : Byte).extractLsb' 6 2 = 0b10#2 := BitVec.extractLsb'_append_eq_left
  have hfield : (0b10#2 ++ dg : Byte).extractLsb' 0 6 = dg := BitVec.extractLsb'_append_eq_right
  obtain ⟨hfe, hff⟩ := ne_fullByteTag (b := 0b10#2 ++ dg) (by rw [htop]; decide)
  rw [chunkOf, if_neg hfe, if_neg hff, htop, if_neg (by decide), if_neg (by decide), if_pos rfl, hfield]

theorem chunkOf_run {n : BitVec 6} (hn : n.toNat ≤ 61) (hb : 0b11#2 ++ n = b) : chunkOf b p = .run n := by
  subst hb
  have htop : (0b11#2 ++ n : Byte).extractLsb' 6 2 = 0b11#2 := BitVec.extractLsb'_append_eq_left
  have hfield : (0b11#2 ++ n : Byte).extractLsb' 0 6 = n := BitVec.extractLsb'_append_eq_right
  have hle : (0b11#2 ++ n : Byte).toNat ≤ 0xFD := by rw [append_toNat_eq_add]; simp; omega
  have hfe : (0b11#2 ++ n : Byte) ≠ 0xFE := fun e => by rw [e] at hle; exact absurd hle (by decide)
  have hff : (0b11#2 ++ n : Byte) ≠ 0xFF := fun e => by rw [e] at hle; exact absurd hle (by decide)
  rw [chunkOf, if_neg hfe, if_neg hff, htop, if_neg (by decide), if_neg (by decide), if_neg (by decide), hfield]

end

/-- The rows of the opcode map: every byte is the tag of one of the six chunks (30_encoding.md R62). -/
theorem tag_cases (b : Byte) :
    b = 0xFE ∨ b = 0xFF ∨ (∃ i : BitVec 6, b = 0b00#2 ++ i) ∨ (∃ dr dg db : BitVec 2, b = 0b01#2 ++ dr ++ dg ++ db) ∨
    (∃ dg : BitVec 6, b = 0b10#2 ++ dg) ∨ ∃ n : BitVec 6, n.toNat ≤ 61 ∧ b = 0b11#2 ++ n := by
  by_cases hfe : b = 0xFE
  · exact .inl hfe
  by_cases hff : b = 0xFF
  · exact .inr (.inl hff)
  have hb : b.extractLsb' 6 2 ++ b.extractLsb' 0 6 = b := BitVec.extractLsb'_append_extractLsb' (w := 2) (len := 6)
  have htop : ∀ t : BitVec 2, t = 0b00#2 ∨ t = 0b01#2 ∨ t = 0b10#2 ∨ t = 0b11#2 := by decide
  obtain h | h | h | h := htop (b.extractLsb' 6 2)
  · exact .inr (.inr (.inl ⟨_, by rw [← h, hb]⟩))
  · exact .inr (.inr (.inr (.inl ⟨_, _, _, by rw [← h, append_diffTag_fields]⟩)))
  · exact .inr (.inr (.inr (.inr (.inl ⟨_, by rw [← h, hb]⟩))))
  · have hn := runField_le hfe hff (by rw [h]; decide) (by rw [h]; decide) (by rw [h]; decide)
    exact .inr (.inr (.inr (.inr (.inr ⟨_, hn, by rw [← h, hb]⟩))))

/-- The fields of LUMA's payload byte as numbers (30_encoding.md R67). -/
theorem lumaPayload_fields (b : Byte) :
    b.extractLsb' 4 4 = BitVec.ofNat 4 (b.toNat / 16) ∧ b.extractLsb' 0 4 = BitVec.ofNat 4 (b.toNat % 16) := by
  constructor <;> apply BitVec.eq_of_toNat_eq <;> simp [Nat.shiftRight_eq_div_pow]

/-- Settles O1: a tag in the range of a row has the form of that row. -/
theorem tagDispatchIsTheOpcodeMap : Obligations.TagDispatchIsTheOpcodeMap := by
  intro b p
  refine ⟨fun h => ?_, fun ⟨h, h'⟩ => ?_, fun ⟨h, h'⟩ => ?_, fun ⟨h, h'⟩ => ?_, fun h => ?_, fun h => ?_⟩
  · have hb : 0b00#2 ++ BitVec.ofNat 6 b.toNat = b := by
      rw [indexTag_eq_ofNat]
      exact BitVec.eq_of_toNat_eq (by simp; omega)
    exact ⟨chunkOf_index p hb, hb ▸ plenOf_index _⟩
  · have hb : 0b01#2 ++ BitVec.ofNat 2 (b.toNat / 16) ++ BitVec.ofNat 2 (b.toNat / 4) ++ BitVec.ofNat 2 b.toNat = b := by
      rw [diffTag_eq_ofNat]
      exact BitVec.eq_of_toNat_eq (by simp; omega)
    exact ⟨chunkOf_diff p hb, hb ▸ plenOf_diff _ _ _⟩
  · have hb : 0b10#2 ++ BitVec.ofNat 6 (b.toNat - 0x80) = b := by
      rw [lumaTag_eq_ofNat]
      exact BitVec.eq_of_toNat_eq (by simp; omega)
    obtain ⟨hhigh, hlow⟩ := lumaPayload_fields p[0]
    exact ⟨by rw [chunkOf_luma p hb, hhigh, hlow], hb ▸ plenOf_luma _⟩
  · have hn : (BitVec.ofNat 6 (b.toNat - 0xC0)).toNat = b.toNat - 0xC0 := by simp; omega
    have hb : 0b11#2 ++ BitVec.ofNat 6 (b.toNat - 0xC0) = b := by
      rw [runTag_eq_ofNat, hn]
      exact BitVec.eq_of_toNat_eq (by simp; omega)
    have hle : (BitVec.ofNat 6 (b.toNat - 0xC0)).toNat ≤ 61 := by omega
    exact ⟨_, hn, hle, chunkOf_run p hle hb, hb ▸ plenOf_run _ hle⟩
  · cases BitVec.eq_of_toNat_eq (x := b) (y := 0xFE) h
    exact ⟨rfl, rfl⟩
  · cases BitVec.eq_of_toNat_eq (x := b) (y := 0xFF) h
    exact ⟨rfl, rfl⟩

/-! ### Encoding -/

theorem encode_eq_some {i : Instr} {e : List Byte} : encode i = some e ↔ i.wellFormed = true ∧ encodeBytes i = e := by
  rw [encode]
  split <;> simp_all

/-- A term out of range has no encoding (30_encoding.md R72, R74). -/
theorem encode_run_eq_none {n : BitVec 6} (hn : 61 < n.toNat) : encode (.run n) = none := by
  simp [encode, Instr.wellFormed, hn]

/-- An encoding is a tag byte and the payload bytes that tag needs (30_encoding.md R62, R74). -/
theorem encodedLength (i : Instr) : Laws.EncodedLength.Statement i := by
  cases i with
  | rgb r g b => exact Laws.EncodedLength.rgb r g b
  | rgba r g b a => exact Laws.EncodedLength.rgba r g b a
  | index i => exact Laws.EncodedLength.index i
  | diff dr dg db => exact Laws.EncodedLength.diff dr dg db
  | luma dg drdg dbdg => exact Laws.EncodedLength.luma dg drdg dbdg
  | run n => exact Laws.EncodedLength.run n

/-- The bytes of a chunk in range select that chunk (30_encoding.md R63 to R68). -/
theorem chunkOf_encodeBytes {i : Instr} (hi : i.wellFormed = true) {b0 : Byte} {payload : List Byte}
    (h : encodeBytes i = b0 :: payload) (rest : List Byte) : chunkOf b0 (payloadOf (payload ++ rest)) = i := by
  cases i with
  | rgb r g b => cases h; rfl
  | rgba r g b a => cases h; rfl
  | index i => cases h; exact chunkOf_index _ rfl
  | diff dr dg db => cases h; exact chunkOf_diff _ rfl
  | luma dg drdg dbdg =>
    cases h
    rw [chunkOf_luma _ rfl]
    exact congrArg₂ (Instr.luma dg) BitVec.extractLsb'_append_eq_left BitVec.extractLsb'_append_eq_right
  | run n => cases h; exact chunkOf_run _ (by simpa [Instr.wellFormed] using hi) rfl

/-- Decoding an encoding gives the chunk back, whatever bytes follow (30_encoding.md R74). -/
theorem decode_encode {i : Instr} {e : List Byte} (h : encode i = some e) (rest : List Byte) :
    decode (e ++ rest) = .ok (i, rest) := by
  obtain ⟨hi, he⟩ := encode_eq_some.1 h
  obtain ⟨b0, payload, h', hlen⟩ := encodedLength i hi
  cases h.symm.trans h'
  refine decode_cons_ok.2 ⟨?_, chunkOf_encodeBytes hi he rest, ?_⟩
  · exact (hlen.symm.trans_le (Nat.le_add_right _ _)).trans_eq List.length_append.symm
  · rw [← hlen]
    exact List.drop_left

/-- The bytes of a word as numbers, most significant first (30_encoding.md R59, R74). -/
theorem be32Bytes_eq_ofNat (w : BitVec 32) : be32Bytes w =
    [BitVec.ofNat 8 (w.toNat / 2 ^ 24), BitVec.ofNat 8 (w.toNat / 2 ^ 16), BitVec.ofNat 8 (w.toNat / 2 ^ 8),
      BitVec.ofNat 8 w.toNat] := by
  simp only [be32Bytes, BitVec.extractLsb', Nat.shiftRight_eq_div_pow, pow_zero, Nat.div_one]

/-- Settles O2, row by row of R74's table, and then by the tag map. -/
theorem encodingsAreTheTableAndDecodeBack : Obligations.EncodingsAreTheTableAndDecodeBack := by
  refine ⟨fun r g b => rfl, fun r g b a => rfl, fun i => ?_, fun dr dg db => ?_, fun dg drdg dbdg => ?_, fun n hn => ?_,
    fun n hn => encode_run_eq_none hn, fun magic h => ?_, rfl, fun i e rest h => decode_encode h rest⟩
  · exact encode_eq_some.2 ⟨rfl, by rw [encodeBytes, indexTag_eq_ofNat]⟩
  · exact encode_eq_some.2 ⟨rfl, by rw [encodeBytes, diffTag_eq_ofNat]⟩
  · exact encode_eq_some.2 ⟨rfl, by rw [encodeBytes, lumaTag_eq_ofNat, lumaPayload_eq_ofNat]⟩
  · exact encode_eq_some.2 ⟨by simp [Instr.wellFormed, hn], by rw [encodeBytes, runTag_eq_ofNat]⟩
  · rw [encodeHeader, toList_four, be32Bytes_eq_ofNat, be32Bytes_eq_ofNat]
    rfl

/-! ### Decoding -/

/-- The payload slots that hold bytes of the stream hold the first of them. -/
theorem payloadOf_take {n : Nat} {bs : List Byte} (h4 : n ≤ 4) (h : n ≤ bs.length) :
    (payloadOf bs).toList.take n = bs.take n := by
  refine List.ext_getElem (by simp [h4, h]) fun k hk _ => ?_
  have hkn : k < n := (List.length_take_le n _).trans_lt' hk
  have hslot := payloadOf_getElem bs ⟨k, hkn.trans_le h4⟩
  simpa [hkn.trans_le h] using hslot

/-- A chunk's encoding is the tag and the payload slots it was built from (30_encoding.md R61 to R68). -/
theorem encodeBytes_chunkOf (b : Byte) (p : Vector Byte 4) :
    encodeBytes (chunkOf b p) = b :: p.toList.take (plenOf b).toNat := by
  obtain rfl | rfl | ⟨i, rfl⟩ | ⟨dr, dg, db, rfl⟩ | ⟨dg, rfl⟩ | ⟨n, hn, rfl⟩ := tag_cases b
  · rw [toList_four]; rfl
  · rw [toList_four]; rfl
  · rw [chunkOf_index p rfl, plenOf_index]; rfl
  · rw [chunkOf_diff p rfl, plenOf_diff]; rfl
  · rw [chunkOf_luma p rfl, plenOf_luma]
    have hp : p[0].extractLsb' 4 4 ++ p[0].extractLsb' 0 4 = p[0] :=
      BitVec.extractLsb'_append_extractLsb' (w := 4) (len := 4)
    rw [encodeBytes, hp, toList_four]
    rfl
  · rw [chunkOf_run p hn rfl, plenOf_run n hn]; rfl

/-- What decodes is its encoding (30_encoding.md R71, R74). -/
theorem encode_of_decode {bs rest : List Byte} {i : Instr} (h : decode bs = .ok (i, rest)) :
    ∃ e, encode i = some e ∧ bs = e ++ rest := by
  cases bs with
  | nil => cases h
  | cons b0 bs =>
    obtain ⟨hle, rfl, rfl⟩ := decode_cons_ok.1 h
    refine ⟨b0 :: bs.take (plenOf b0).toNat, encode_eq_some.2 ⟨chunkOf_wellFormed _ _, ?_⟩, ?_⟩
    · rw [encodeBytes_chunkOf, payloadOf_take (plenOf_le b0) hle]
    · rw [List.cons_append, List.take_append_drop]

/-- Settles O3: decoding fails only for missing payload bytes, since every tag is a chunk's. -/
theorem decodedBytesAreTheEncoding : Obligations.DecodedBytesAreTheEncoding := by
  refine ⟨fun bs i rest h => encode_of_decode h, fun b0 rest => ?_⟩
  simp [decode_cons_ok]

/-- Settles O4: the words are encodings. -/
theorem writtenWordsDecode : Obligations.WrittenWordsDecode :=
  ⟨decode_encode (e := [_, _, _, _]) rfl [], decode_encode (e := [_, _, _, _, _]) rfl [], decode_encode (e := [_]) rfl _,
    decode_encode (e := [_]) rfl [], decode_encode (e := [_, _]) rfl [], decode_encode (e := [_]) rfl []⟩

/-- Settles O14: bytes that decode are an encoding, and there is none. -/
theorem runOutOfRangeIsRefused : Obligations.RunOutOfRangeIsRefused := by
  intro n hn
  refine ⟨fun s => if_neg (Nat.not_le.2 hn), encode_run_eq_none hn, fun bs rest h => ?_⟩
  obtain ⟨e, he, -⟩ := encode_of_decode h
  cases (encode_run_eq_none hn).symm.trans he

end Sys2Proof
end

section
/-! PROOFS. A whole header, from the first byte to the checks (40_header.md R76 to R81). -/
namespace Sys2Proof.Machine

/-- 40_header.md R76: HBUF once a byte is stored at `n`. -/
theorem take_setIfInBounds {m n : Nat} (p : Vector Byte m) (hn : n < m) (v : Byte) :
    (p.setIfInBounds n v).toList.take (n + 1) = p.toList.take n ++ [v] := by
  rw [Vector.toList_setIfInBounds, List.take_add_one, List.take_set_of_le le_rfl, List.getElem?_set_self (by simpa using hn)]
  rfl

theorem take_append_last {n : Nat} (q : Vector Byte (n + 1)) : q.toList.take n ++ [q[n]] = q.toList := by
  have h := List.take_concat_get' q.toList n (by simp)
  rwa [Vector.getElem_toList, List.take_of_length_le (i := n + 1) (by simp)] at h

/-- A buffer that lacks only its last byte is whole once that byte is stored. -/
theorem setIfInBounds_last {n : Nat} {p q : Vector Byte (n + 1)} (h : p.toList.take n = q.toList.take n) :
    p.setIfInBounds n q[n] = q := by
  have htake := take_setIfInBounds p n.lt_succ_self q[n]
  rw [List.take_of_length_le (by simp), h, take_append_last] at htake
  exact Vector.toList_inj.1 htake

/-- 40_header.md R76: the step of a header byte before the fourteenth. -/
theorem step_headerByte {s : State} {v : Byte} {rest : List Byte} (hp : s.phase = .hdr) (hlt : s.hcnt.toNat < 13)
    (hs : s.source.pending = v :: rest) : step s = .next (storeHeaderByte v (consumeByte rest s)) := by
  have hen : enabled s = true := by simp [enabled, hp]; omega
  have hne : s.hcnt + 1 ≠ 14 := by bv_omega
  rw [step_hdr hen hp, headerStep_byte hs, if_neg hne]

/-- 40_header.md R76 to R78: the step of the fourteenth header byte. -/
theorem step_lastHeaderByte {s : State} {v : Byte} {rest : List Byte} (hp : s.phase = .hdr) (hc : s.hcnt = 13)
    (hs : s.source.pending = v :: rest) : step s = .next (checkHeader Config.magic (s.headerRead v rest)) := by
  have hen : enabled s = true := by simp [enabled, hp, hc]
  have h14 : s.hcnt + 1 = 14 := by rw [hc]; rfl
  rw [step_hdr hen hp, headerStep_byte hs, if_pos h14]

/-- 40_header.md R76: header bytes before the fourteenth are stored one after the other, and nothing else changes. -/
theorem reaches_headerBytes {bs rest : List Byte} {s : State} (hp : s.phase = .hdr) (hlt : s.hcnt.toNat + bs.length < 14)
    (hs : s.source.pending = bs ++ rest) :
    ∃ t, reaches bs.length s t ∧
      t = { s with
        hbuf := t.hbuf, hcnt := t.hcnt, bpos := s.bpos + bs.length, source := { s.source with pending := rest } } ∧
      t.hcnt.toNat = s.hcnt.toNat + bs.length ∧
      t.hbuf.toList.take t.hcnt.toNat = s.hbuf.toList.take s.hcnt.toNat ++ bs := by
  induction bs generalizing s with
  | nil =>
    refine ⟨s, reaches_zero.2 rfl, ?_, rfl, (List.append_nil _).symm⟩
    rw [List.nil_append] at hs
    rw [← hs]
    rfl
  | cons v bs ih =>
    rw [List.length_cons] at hlt
    have hstep := step_headerByte hp (by omega) hs
    have hc : (storeHeaderByte v (consumeByte (bs ++ rest) s)).hcnt.toNat = s.hcnt.toNat + 1 := by
      rw [storeHeaderByte_hcnt, consumeByte_hcnt]
      bv_omega
    obtain ⟨t, hr, ht, hct, hbt⟩ := ih (s := storeHeaderByte v (consumeByte (bs ++ rest) s)) hp (by omega) rfl
    refine ⟨t, reaches_succ.2 ⟨_, hstep, hr⟩, ?_, by rw [hct, hc, List.length_cons]; omega, ?_⟩
    · rw [ht]
      simp [storeHeaderByte, consumeByte]
      omega
    · rw [hbt, hc, storeHeaderByte_hbuf, consumeByte_hbuf, consumeByte_hcnt, take_setIfInBounds _ (by omega),
        List.append_assoc, List.singleton_append]

/-- The state once all fourteen header bytes are stored, `rest` being left in the source (40_header.md R76). -/
def State.headerStored (s : State) (hb : Vector Byte 14) (rest : List Byte) : State :=
  { s with hbuf := hb, hcnt := 14, bpos := s.bpos + 14, source := { s.source with pending := rest } }

/-- 40_header.md R76 to R78: fourteen bytes from the start of HDR are stored in HBUF, loaded and checked. -/
theorem reaches_checkHeader {s : State} {hb : Vector Byte 14} {rest : List Byte} (hp : s.phase = .hdr) (hc : s.hcnt = 0)
    (hs : s.source.pending = hb.toList ++ rest) :
    reaches 14 s (checkHeader Config.magic (loadHeader (s.headerStored hb rest))) := by
  have hlen : (hb.toList.take 13).length = 13 := by simp
  obtain ⟨t, hr, ht, hct, hbt⟩ := reaches_headerBytes (bs := hb.toList.take 13) (rest := hb[13] :: rest) hp
    (by rw [hc, hlen]; decide) (by rw [hs, List.append_cons, take_append_last])
  rw [hlen] at hr ht hct
  have hct' : t.hcnt = 13 := BitVec.eq_of_toNat_eq (by rw [hct, hc]; rfl)
  rw [hct', hc] at hbt
  have hstep := step_lastHeaderByte (s := t) (rest := rest) (by rw [ht]; exact hp) hct' (by rw [ht])
  have hread : storeHeaderByte hb[13] (consumeByte rest t) = s.headerStored hb rest := by
    have hbuf : t.hbuf.setIfInBounds t.hcnt.toNat hb[13] = hb := by
      rw [hct']
      exact setIfInBounds_last hbt
    have hcnt : t.hcnt + 1 = 14 := by
      rw [hct']
      rfl
    calc storeHeaderByte hb[13] (consumeByte rest t)
      _ = { consumeByte rest t with hbuf := hb, hcnt := 14 } :=
        congrArg₂ (fun b c => { consumeByte rest t with hbuf := b, hcnt := c }) hbuf hcnt
      _ = s.headerStored hb rest := by rw [ht]; rfl
  exact reaches_add hr (reaches_succ.2 ⟨_, hstep, reaches_zero.2 (by rw [State.headerRead, hread])⟩)

/-- The fourteen bytes of a header as HBUF holds them (30_encoding.md R59, R74). -/
def headerBuffer (magic : Magic) (h : Header) : Vector Byte 14 :=
  #v[magic[0], magic[1], magic[2], magic[3],
    h.width.extractLsb' 24 8, h.width.extractLsb' 16 8, h.width.extractLsb' 8 8, h.width.extractLsb' 0 8,
    h.height.extractLsb' 24 8, h.height.extractLsb' 16 8, h.height.extractLsb' 8 8, h.height.extractLsb' 0 8,
    h.channels, h.colorspace]

theorem headerBuffer_toList (magic : Magic) (h : Header) : (headerBuffer magic h).toList = encodeHeader magic h := by
  rw [encodeHeader, toList_four]
  rfl

/-- 20_memory.md R43: assembling the bytes of a word gives the word. -/
theorem be32_extractLsb' (w : BitVec 32) :
    be32 (w.extractLsb' 24 8) (w.extractLsb' 16 8) (w.extractLsb' 8 8) (w.extractLsb' 0 8) = w := by
  rw [be32, BitVec.extractLsb'_append_extractLsb'_eq_extractLsb' (start₁ := 16) (len₁ := 8) rfl,
    BitVec.extractLsb'_append_extractLsb'_eq_extractLsb' (start₁ := 8) (len₁ := 8) rfl]
  exact BitVec.extractLsb'_append_extractLsb' (w := 24) (len := 8)

/-- 40_header.md R77: the registers loaded from a header's bytes are that header. -/
theorem headerOf_loadHeader {s : State} {magic : Magic} {h : Header} (hb : s.hbuf = headerBuffer magic h) :
    headerOf (loadHeader s) = h := by
  rw [headerOf, loadHeader_width, loadHeader_height, loadHeader_channels, loadHeader_colorspace, hb]
  exact congrArg₂ (Header.mk · · h.channels h.colorspace) (be32_extractLsb' h.width) (be32_extractLsb' h.height)

/-- 40_header.md R78: a header with the magic and a nonzero size passes the checks. -/
theorem checkHeader_headerBuffer {s : State} {magic : Magic} {h : Header} (hb : s.hbuf = headerBuffer magic h)
    (hw : h.width ≠ 0) (hh : h.height ≠ 0) : checkHeader magic (loadHeader s) = acceptHeader (loadHeader s) := by
  have hhead := headerOf_loadHeader hb
  have hm : #v[s.hbuf[0], s.hbuf[1], s.hbuf[2], s.hbuf[3]] = magic := by
    rw [hb]
    exact Vector.toList_inj.1 (toList_four magic).symm
  refine checkHeader_accepts hm ?_ ?_
  · rwa [← congrArg Header.width hhead] at hw
  · rwa [← congrArg Header.height hhead] at hh

/-- The size registers hold a header's size once its bytes are loaded, and TOTAL its exact product once it is accepted
(10_state.md R23). -/
theorem acceptHeader_loadHeader_total {s : State} {magic : Magic} {h : Header} (hb : s.hbuf = headerBuffer magic h) :
    (acceptHeader (loadHeader s)).total.toNat = h.width.toNat * h.height.toNat := by
  rw [acceptHeader_total_toNat, ← headerOf_loadHeader hb]
  rfl

/-- Settles O26: the fourteen bytes are stored and loaded, and they pass the checks. -/
theorem encodedHeaderIsAccepted : Obligations.EncodedHeaderIsAccepted := by
  intro h rest hw hh
  have hrun := reaches_checkHeader (s := startOn (encodeHeader Config.magic h ++ rest)) (hb := headerBuffer Config.magic h)
    (rest := rest) rfl rfl (by rw [headerBuffer_toList]; rfl)
  rw [checkHeader_headerBuffer rfl hw hh] at hrun
  exact ⟨_, hrun, rfl, headerOf_loadHeader (magic := Config.magic) rfl, rfl, acceptHeader_loadHeader_total rfl, rfl, rfl, rfl,
    rfl, fun i => cacheRead_hostReset i ⟨[], true⟩ .always State.reset, rfl⟩

end Sys2Proof.Machine
end

section
/-! PROOFS. The header reader's step (40_header.md R76 to R80), and what an abort changes (60_exceptions.md R112). -/
namespace Sys2Proof.Machine

/-! ### The header byte step -/

theorem take_four (p : Vector Byte 14) : p.toList.take 4 = (#v[p[0], p[1], p[2], p[3]]).toList := by
  refine List.ext_getElem (by simp) fun k hk _ => ?_
  have hk4 : k < 4 := by simpa using hk
  interval_cases k <;> simp

/-- 40_header.md R78: the checks as one condition. -/
theorem checkHeader_eq_ite (magic : Magic) (s : State) :
    checkHeader magic s = if s.hbuf.toList.take 4 = magic.toList ∧ s.width ≠ 0 ∧ s.height ≠ 0 then acceptHeader s
      else raise .header s := by
  simp only [take_four, Vector.toList_inj]
  split
  next hok =>
    obtain ⟨hm, hw, hh⟩ := hok
    exact checkHeader_accepts hm hw hh
  next hbad =>
    obtain e | ⟨hm, hw, hh, -⟩ := checkHeader_cases magic s
    · exact e
    · exact (hbad ⟨hm, hw, hh⟩).elim

/-- What a step from HDR does (40_header.md R76 to R78): it waits, meets `End`, stores a byte, or checks a whole header. -/
theorem step_hdr_cases {s t : State} (hp : s.phase = .hdr) (h : step s = .next t) :
    t = s ∨ t = raise .header s ∨
    ∃ v rest, s.source.pending = v :: rest ∧
      ((s.hcnt + 1 ≠ 14 ∧ t = storeHeaderByte v (consumeByte rest s)) ∨
       (s.hcnt + 1 = 14 ∧ (t = raise .header (s.headerRead v rest) ∨ t = acceptHeader (s.headerRead v rest)))) := by
  rw [step_hdr (enabled_of_step h) hp] at h
  obtain ⟨e, -⟩ | ⟨e, -⟩ | ⟨v, rest, hs, ⟨hc, e⟩ | ⟨hc, e⟩⟩ := headerStep_cases Config.magic s <;> cases e.symm.trans h
  · exact .inl rfl
  · exact .inr (.inl rfl)
  · exact .inr (.inr ⟨v, rest, hs, .inl ⟨hc, rfl⟩⟩)
  · exact .inr (.inr ⟨v, rest, hs, .inr ⟨hc, (checkHeader_cases _ _).imp_right fun ⟨_, _, _, e⟩ => e⟩⟩)

/-- Settles O25, by the cases of a step from HDR. -/
theorem headerPhaseTouchesNoPixel : Obligations.HeaderPhaseTouchesNoPixel := by
  intro s t hp h
  obtain rfl | rfl | ⟨v, rest, -, ⟨-, rfl⟩ | ⟨hc, rfl | rfl⟩⟩ := step_hdr_cases hp h
  · exact ⟨rfl, rfl, rfl, rfl, fun _ ht => absurd (hp.symm.trans ht) nofun⟩
  · exact ⟨rfl, rfl, rfl, rfl, fun _ => nofun⟩
  · exact ⟨rfl, rfl, rfl, rfl, fun _ ht => absurd (hp.symm.trans ht) nofun⟩
  · exact ⟨rfl, rfl, rfl, rfl, fun _ => nofun⟩
  · refine ⟨rfl, rfl, rfl, rfl, fun hi _ => ?_⟩
    obtain ⟨hlt, -, hb, -⟩ := hi.header_phase hp
    have h13 : s.bpos = 13 := by bv_omega
    exact congrArg (· + 1) h13

/-- 40_header.md R76: HBUF once the fourteenth byte is stored. -/
theorem headerRead_hbuf {s : State} (hc : s.hcnt = 13) (v : Byte) (rest : List Byte) :
    (s.headerRead v rest).hbuf = s.hbuf.set 13 v := by
  rw [State.headerRead, loadHeader_hbuf, storeHeaderByte_hbuf, consumeByte_hbuf, consumeByte_hcnt, hc]
  ext j hj
  simp [Vector.getElem_set, Vector.getElem_setIfInBounds]

/-- Settles O24: the byte before the fourteenth is stored, and the registers that the fourteenth loads decide the checks. -/
theorem headerReaderStep : Obligations.HeaderReaderStep := by
  intro s hp hlt
  refine ⟨fun hs he => ?_, fun v rest hs h13 => step_headerByte hp h13 hs, fun v rest hs h13 => ?_⟩
  · rw [step_hdr (by simp [enabled, hp, hlt]) hp, headerStep, byteRead_ended.2 ⟨hs, he⟩]
    rfl
  · have hc : s.hcnt = 13 := BitVec.eq_of_toNat_eq h13
    have hbuf := headerRead_hbuf hc v rest
    have hcnt : (s.headerRead v rest).hcnt = 14 := congrArg (· + 1) hc
    have hcs : (s.headerRead v rest).hbuf[13] = v := by simp [hbuf]
    refine ⟨_, step_lastHeaderByte hp hc hs, ?_⟩
    rw [checkHeader_eq_ite]
    split
    · exact ⟨hbuf, hcnt, rfl, rfl, be32_toNat _ _ _ _, be32_toNat _ _ _ _, rfl, hcs,
        by rw [if_pos ‹_›]; exact ⟨rfl, rfl, acceptHeader_total_toNat _, rfl⟩, rfl⟩
    · exact ⟨hbuf, hcnt, rfl, rfl, be32_toNat _ _ _ _, be32_toNat _ _ _ _, rfl, hcs,
        by rw [if_neg ‹_›]; exact ⟨rfl, rfl, rfl, rfl⟩, rfl⟩

/-! ### Aborts -/

/-- Settles O33: the cases of a step that raise are the three shapes, and no other case enters ERROR. -/
theorem abortIsPrecise : Obligations.AbortIsPrecise := by
  intro s t h hs ht
  obtain rfl | ⟨-, hsrc, -, rfl⟩ | ⟨_, _, hp, -, -, rfl⟩ | ⟨v, rest, hp, hsrc, hc, rfl⟩ | ⟨_, _, -, -, -, rfl⟩ |
    ⟨-, hsrc, -, rfl⟩ | ⟨_, _, -, -, -, rfl⟩ | ⟨_, _, -, -, -, e⟩ | ⟨_, _, hp, -, -, rfl⟩ | ⟨_, _, -, -, -, e⟩ |
    ⟨_, -, -, -, hpt⟩ | ⟨-, hsrc, -, rfl | rfl⟩ | ⟨v, rest, hp, hsrc, rfl | rfl⟩ := step_cases h
  · exact absurd ht hs
  · exact ⟨nofun, .inl ⟨hsrc, rfl⟩⟩
  · exact absurd ht hs
  · have h13 : s.hcnt = 13 := by bv_omega
    exact ⟨nofun, .inr (.inr ⟨v, rest, hsrc, hp, h13, rfl⟩)⟩
  · cases ht
  · exact ⟨nofun, .inl ⟨hsrc, rfl⟩⟩
  · cases ht
  · rw [e] at ht
    cases ht
  · exact absurd ht hs
  · rw [e] at ht
    cases ht
  · simp [ht] at hpt
  · exact ⟨nofun, .inl ⟨hsrc, rfl⟩⟩
  · cases ht
  · exact absurd ht hs
  · exact ⟨nofun, .inr (.inl ⟨v, rest, hsrc, hp, rfl⟩)⟩

end Sys2Proof.Machine
end

section
/-! PROOFS. The channels and colorspace bytes never matter (40_header.md R79): a step from the state without them is the same
step without them. -/
namespace Sys2Proof.Machine

theorem mapNext_next (f : State → State) (s : State) : mapNext f (.next s) = .next (f s) := rfl

theorem mapNext_eq_next {f : State → State} {r : Result} {u : State} :
    mapNext f r = .next u ↔ ∃ t, r = .next t ∧ f t = u := by
  cases r <;> simp [mapNext]

/-- Clearing bytes 12 and 13 twice clears them once. -/
theorem set_meta_set_meta (b : Vector Byte 14) :
    (((b.set 12 0).set 13 0).set 12 0).set 13 0 = (b.set 12 0).set 13 0 := by
  rw [Vector.set_comm (i := 13) (j := 12) 0 0 (by decide), Vector.set_set, Vector.set_set]

theorem dropMeta_dropMeta (s : State) : s.dropMeta.dropMeta = s.dropMeta :=
  congrArg (fun b => { s.dropMeta with hbuf := b }) (set_meta_set_meta s.hbuf)

/-! ### The operations past the header do not look at them -/

theorem byteRead_dropMeta (s : State) : byteRead s.dropMeta = (byteRead s).mapState State.dropMeta := by
  have hs : s.dropMeta.source = s.source := rfl
  rw [byteRead, byteRead, hs]
  split
  · rfl
  · split <;> rfl

theorem applyChunk_dropMeta (i : Instr) (s : State) :
    applyChunk i s.dropMeta = mapNext State.dropMeta (applyChunk i s) := by
  cases i with
  | run n =>
    simp only [applyChunk, exec, execRun, apply_ite afterExec, apply_ite (mapNext _)]
    rfl
  | _ => rfl

theorem tagStep_dropMeta (s : State) : tagStep s.dropMeta = mapNext State.dropMeta (tagStep s) := by
  rw [tagStep, tagStep, byteRead_dropMeta]
  cases byteRead s with
  | byte v u =>
    simp only [Read.mapState, apply_ite (mapNext _), ← applyChunk_dropMeta]
    rfl
  | ended => rfl
  | waits => rfl

theorem payloadStep_dropMeta (s : State) : payloadStep s.dropMeta = mapNext State.dropMeta (payloadStep s) := by
  rw [payloadStep, payloadStep, byteRead_dropMeta]
  cases byteRead s with
  | byte v u =>
    simp only [Read.mapState, apply_ite (mapNext _), ← applyChunk_dropMeta]
    rfl
  | ended => rfl
  | waits => rfl

theorem afterEmit_dropMeta (s : State) : afterEmit s.dropMeta = (afterEmit s).dropMeta := by
  simp only [afterEmit, apply_ite State.dropMeta]
  rfl

theorem emitStep_dropMeta (s : State) : emitStep s.dropMeta = mapNext State.dropMeta (emitStep s) := by
  have hd : s.dropMeta.demand = s.demand := rfl
  rw [emitStep, emitStep, emitCur, emitCur, hd]
  cases s.demand with
  | always => exact congrArg Host.Outcome.next (afterEmit_dropMeta (takePixel .always s))
  | count n =>
    cases n with
    | zero => rfl
    | succ n => exact congrArg Host.Outcome.next (afterEmit_dropMeta (takePixel (.count n) s))

theorem trailerStep_dropMeta (s : State) : trailerStep s.dropMeta = mapNext State.dropMeta (trailerStep s) := by
  rw [trailerStep, trailerStep, byteRead_dropMeta, apply_ite (mapNext _)]
  cases byteRead s with
  | byte v u =>
    simp only [Read.mapState, apply_ite (mapNext _)]
    rfl
  | ended => rfl
  | waits => rfl

/-! ### The header reader writes them and does not look at them -/

/-- 40_header.md R78: the checks look at the magic and the size. -/
theorem checkHeader_dropMeta (magic : Magic) (s : State) :
    checkHeader magic s.dropMeta = (checkHeader magic s).dropMeta := by
  have hm : #v[s.dropMeta.hbuf[0], s.dropMeta.hbuf[1], s.dropMeta.hbuf[2], s.dropMeta.hbuf[3]] =
      #v[s.hbuf[0], s.hbuf[1], s.hbuf[2], s.hbuf[3]] := by simp [State.dropMeta]
  simp only [checkHeader, hm, apply_ite State.dropMeta]
  rfl

/-- Clearing bytes 12 and 13 before a byte is stored at `n` is lost once they are cleared after it. -/
theorem set_meta_setIfInBounds (b : Vector Byte 14) (n : Nat) (v : Byte) :
    ((((b.set 12 0).set 13 0).setIfInBounds n v).set 12 0).set 13 0 = ((b.setIfInBounds n v).set 12 0).set 13 0 := by
  ext j hj
  by_cases h13 : 13 = j
  · simp [h13]
  by_cases h12 : 12 = j
  · simp [h12, h13]
  · simp [h12, h13, Vector.getElem_setIfInBounds]

/-- 40_header.md R76. -/
theorem storeHeaderByte_dropMeta (v : Byte) (s : State) :
    (storeHeaderByte v s.dropMeta).dropMeta = (storeHeaderByte v s).dropMeta :=
  congrArg (fun b => { (storeHeaderByte v s).dropMeta with hbuf := b }) (set_meta_setIfInBounds s.hbuf s.hcnt.toNat v)

/-- 40_header.md R77: only the registers CHANNELS and COLORSPACE come from bytes 12 and 13. -/
theorem loadHeader_dropMeta (s : State) : (loadHeader s.dropMeta).dropMeta = (loadHeader s).dropMeta := by
  simpa [loadHeader, State.dropMeta] using set_meta_set_meta s.hbuf

theorem headerStep_dropMeta (magic : Magic) (s : State) :
    mapNext State.dropMeta (headerStep magic s.dropMeta) = mapNext State.dropMeta (headerStep magic s) := by
  rw [headerStep, headerStep, byteRead_dropMeta]
  cases byteRead s with
  | byte v u =>
    have hstore := storeHeaderByte_dropMeta v u
    have hload : (loadHeader (storeHeaderByte v u.dropMeta)).dropMeta = (loadHeader (storeHeaderByte v u)).dropMeta := by
      rw [← loadHeader_dropMeta, hstore, loadHeader_dropMeta]
    simp only [Read.mapState, apply_ite (mapNext _), mapNext_next, hstore, ← checkHeader_dropMeta, hload]
    rfl
  | ended => exact congrArg Host.Outcome.next (dropMeta_dropMeta (raise .header s))
  | waits => exact congrArg Host.Outcome.next (dropMeta_dropMeta s)

theorem mapNext_dropMeta_mapNext (r : Result) :
    mapNext State.dropMeta (mapNext State.dropMeta r) = mapNext State.dropMeta r := by
  cases r with
  | next s => exact congrArg Host.Outcome.next (dropMeta_dropMeta s)
  | fault f => rfl
  | refused f => rfl

/-- The states that a step leads to with and without the two bytes differ in nothing else. -/
theorem step_dropMeta (s : State) : mapNext State.dropMeta (step s.dropMeta) = mapNext State.dropMeta (step s) := by
  have hen : enabled s.dropMeta = enabled s := rfl
  have hphase : s.dropMeta.phase = s.phase := rfl
  rw [step, step, stepWith, stepWith, hen, hphase]
  split
  · cases s.phase with
    | hdr => exact headerStep_dropMeta Config.magic s
    | tag => exact (congrArg _ (tagStep_dropMeta s)).trans (mapNext_dropMeta_mapNext _)
    | payload => exact (congrArg _ (payloadStep_dropMeta s)).trans (mapNext_dropMeta_mapNext _)
    | emit => exact (congrArg _ (emitStep_dropMeta s)).trans (mapNext_dropMeta_mapNext _)
    | trailer => exact (congrArg _ (trailerStep_dropMeta s)).trans (mapNext_dropMeta_mapNext _)
    | done => exact mapNext_dropMeta_mapNext (.next s)
    | error => exact mapNext_dropMeta_mapNext (.next s)
  · rfl

/-! ### Two headers -/

/-- 40_header.md R77, R78: the checks leave the header registers as they are loaded. -/
theorem headerOf_checkHeader (magic : Magic) (s : State) : headerOf (checkHeader magic s) = headerOf s := by
  obtain e | ⟨-, -, -, e⟩ := checkHeader_cases magic s <;> rw [e] <;> rfl

/-- The state that the checks see after the header `h`, written for the block with `magic`, from reset. -/
def encodedHeaderLoaded (magic : Magic) (h : Header) (rest : List Byte) : State :=
  loadHeader ((startOn rest).headerStored (headerBuffer magic h) rest)

theorem reaches_encodedHeader (magic : Magic) (h : Header) (rest : List Byte) :
    reaches 14 (startOn (encodeHeader magic h ++ rest))
      (checkHeader Config.magic (encodedHeaderLoaded magic h rest)) :=
  reaches_checkHeader (s := startOn (encodeHeader magic h ++ rest)) (hb := headerBuffer magic h) rfl rfl
    (by rw [headerBuffer_toList]; rfl)

theorem headerOf_encodedHeaderLoaded (magic : Magic) (h : Header) (rest : List Byte) :
    headerOf (encodedHeaderLoaded magic h rest) = h :=
  headerOf_loadHeader (magic := magic) rfl

/-- Settles O41: the checks and every step commute with dropping the two bytes. -/
theorem channelsAndColorspaceNeverMatter : Obligations.ChannelsAndColorspaceNeverMatter := by
  refine ⟨fun magic h c sp rest => ?_, fun s s' t hdrop h => ?_⟩
  · have hmeta (g : Header) : headerOf (checkHeader Config.magic (encodedHeaderLoaded magic g rest)) = g :=
      (headerOf_checkHeader _ _).trans (headerOf_encodedHeaderLoaded magic g rest)
    refine ⟨_, _, reaches_encodedHeader magic h rest, reaches_encodedHeader magic _ rest, ?_,
      ⟨congrArg Header.channels (hmeta h), congrArg Header.colorspace (hmeta h)⟩,
      congrArg Header.channels (hmeta _), congrArg Header.colorspace (hmeta _)⟩
    rw [← checkHeader_dropMeta, ← checkHeader_dropMeta]
    rfl
  · have hstep : mapNext State.dropMeta (step s') = .next t.dropMeta := by
      rw [← step_dropMeta s', ← hdrop, step_dropMeta s, h, mapNext_next]
    obtain ⟨t', ht', hdrop'⟩ := mapNext_eq_next.1 hstep
    exact ⟨t', ht', hdrop'.symm⟩

end Sys2Proof.Machine
end

section
/-! PROOFS. The tokenizer: a chunk's bytes one step after the other, and the chunk applied by the step of its last byte
(41_tokenizer.md R83 to R87). -/
namespace Sys2Proof.Machine

/-! ### The step of one byte -/

/-- 41_tokenizer.md R83: the step of a tag that needs payload bytes. -/
theorem step_multiByteTag {s : State} {v : Byte} {rest : List Byte} (hp : s.phase = .tag)
    (hlt : s.emitted.toNat < s.total.toNat) (hs : s.source.pending = v :: rest) (hv : plenOf v ≠ 0) :
    step s = .next (setPhase .payload (latchTag v (plenOf v) (consumeByte rest s))) := by
  have hen : enabled s = true := by simpa [enabled, hp] using hlt
  rw [step_tag hen hp, tagStep_byte hs, if_neg hv]

/-- 41_tokenizer.md R84: the step of a payload byte before the last. -/
theorem step_payloadByte {s : State} {v : Byte} {rest : List Byte} (hp : s.phase = .payload)
    (hlt : s.pcnt.toNat + 1 < s.plen.toNat) (hle : s.plen.toNat ≤ 4) (hs : s.source.pending = v :: rest) :
    step s = .next (latchPayload v (consumeByte rest s)) := by
  have hen : enabled s = true := by simp [enabled, hp]; omega
  have hne : s.pcnt + 1 ≠ s.plen := by bv_omega
  rw [step_payload hen hp, payloadStep_byte hs, if_neg hne]

/-- 41_tokenizer.md R83, R86: the step of a tag that is a whole chunk. -/
theorem step_singleByteChunk {s : State} {b0 : Byte} {rest : List Byte} {i : Instr} (hp : s.phase = .tag)
    (hlt : s.emitted.toNat < s.total.toNat) (hs : s.source.pending = b0 :: rest) (hd : decode [b0] = .ok (i, [])) :
    step s = applyChunk i (latchTag b0 (plenOf b0) (consumeByte rest s)) := by
  have hen : enabled s = true := by simpa [enabled, hp] using hlt
  have hstep := step_appliesChunk (.inl hp) hen hs (by rwa [State.chunkWith, if_pos hp])
  rwa [State.chunkRead, if_pos hp] at hstep

/-- 30_encoding.md R62: the tags that need payload bytes, and how many. -/
theorem plenOf_multiByteTag {v : Byte} (h : 0x80 ≤ v.toNat ∧ v.toNat ≤ 0xBF ∨ 0xFE ≤ v.toNat) :
    plenOf v = if v = 0xFE then 3 else if v = 0xFF then 4 else 1 := by
  obtain h | h := h
  · obtain ⟨-, -, hluma, -⟩ := tagDispatchIsTheOpcodeMap v (Vector.replicate 4 0)
    rw [if_neg (by bv_omega), if_neg (by bv_omega), (hluma h).2]
  · obtain rfl | rfl : v = 0xFE ∨ v = 0xFF := by bv_omega
    · rfl
    · rfl

/-- Settles O21, by the step of one byte in each of the two phases. -/
theorem tokenizerLatchesBytes : Obligations.TokenizerLatchesBytes := by
  intro s v rest hs
  refine ⟨fun hp hlt hv => ?_, fun hp hlt hle => step_payloadByte hp hlt hle hs⟩
  have hplen := plenOf_multiByteTag hv
  have hne : plenOf v ≠ 0 := by rw [hplen]; split_ifs <;> decide
  rw [step_multiByteTag hp hlt hs hne, hplen]
  rfl

/-! ### The chunk's effect -/

/-- A chunk reads CUR and CACHE alone, and writes CUR, CACHE and REP alone (43_index_cache.md R93, 45_run_chunk.md R97). -/
theorem exec_congr {i : Instr} {s s' t : State} (h : exec i s = .next t) (hcur : s'.cur = s.cur)
    (hcache : s'.cache = s.cache) : exec i s' = .next { s' with cur := t.cur, cache := t.cache, rep := t.rep } := by
  cases i with
  | run n =>
    simp only [exec, execRun] at h ⊢
    split at h <;> cases h
    rw [if_pos ‹_›, ← hcur, ← hcache]
  | index k =>
    cases h
    simp [exec, execIndex, cacheRead_congr hcache, ← hcache, commit, cacheWrite]
  | _ =>
    cases h
    simp [exec, execRgb, execRgba, execDiff, execLuma, hcur, ← hcache, commit, cacheWrite]

/-- 41_tokenizer.md R86: the chunk's effect, and then PHASE is EMIT. -/
theorem applyChunk_of_exec {i : Instr} {s t : State} (h : exec i s = .next t) :
    applyChunk i s = .next (setPhase .emit t) := by
  rw [applyChunk, h]
  rfl

/-- What decodes has an encoding, so it has an effect (30_encoding.md R71, R74). -/
theorem exists_exec_of_decode {bs rest : List Byte} {i : Instr} (h : decode bs = .ok (i, rest)) (s : State) :
    ∃ t, exec i s = .next t := by
  obtain ⟨e, he, -⟩ := encode_of_decode h
  obtain ⟨hi, -⟩ := encode_eq_some.1 he
  obtain ⟨new, -, h⟩ | ⟨n, -, -, h⟩ := exec_cases hi s <;> exact ⟨_, h⟩

/-- Settles O20: the step applies the decoded chunk. -/
theorem stepRunsDecodedInstruction : Obligations.StepRunsDecodedInstruction := by
  intro s v rest i hp hen hs hd
  obtain ⟨t, ht⟩ := exists_exec_of_decode hd (s.chunkRead v rest)
  refine ⟨t, ht, ?_⟩
  rw [step_appliesChunk hp hen hs hd, applyChunk_of_exec ht]
  rfl

/-! ### Inside a chunk -/

/-- 30_encoding.md R62: the bytes of one chunk are its tag and as many bytes as that tag needs. -/
theorem length_payload_of_decode {b0 : Byte} {payload : List Byte} {i : Instr}
    (h : decode (b0 :: payload) = .ok (i, [])) : payload.length = (plenOf b0).toNat := by
  obtain ⟨hle, -, hdrop⟩ := decode_cons_ok.1 h
  exact le_antisymm (List.drop_eq_nil_iff.1 hdrop) hle

theorem reaches_one {s t : State} (h : step s = .next t) : reaches 1 s t :=
  reaches_succ.2 ⟨t, h, reaches_zero.2 rfl⟩

/-- PAYLOAD with the tag `b0` and the first payload bytes `bs` of its chunk latched (41_tokenizer.md R83, R84). -/
def State.inChunk (s : State) (b0 : Byte) (bs : List Byte) : State :=
  bs.foldl (fun t v => latchPayload v t) (setPhase .payload (latchTag b0 (plenOf b0) s))

/-- The source and BPOS after `n` bytes have been taken, `rest` being what the source still holds (20_memory.md R38). -/
def consumeBytes (n : Nat) (rest : List Byte) (s : State) : State :=
  { s with source := { s.source with pending := rest }, bpos := s.bpos + n }

section
variable (s : State) (b0 : Byte) (bs : List Byte)

theorem inChunk_concat (v : Byte) : s.inChunk b0 (bs ++ [v]) = latchPayload v (s.inChunk b0 bs) :=
  List.foldl_concat ..

/-- Inside a chunk PHASE and the tokenizer's registers alone have changed. -/
theorem inChunk_frame : s.inChunk b0 bs =
    { s with
      phase := .payload, tag := b0, plen := plenOf b0, pcnt := (s.inChunk b0 bs).pcnt, pbuf := (s.inChunk b0 bs).pbuf } := by
  induction bs using List.reverseRecOn with
  | nil => rfl
  | append_singleton bs v ih =>
    rw [inChunk_concat]
    exact congrArg (latchPayload v) ih

@[simp] theorem inChunk_phase : (s.inChunk b0 bs).phase = .payload := (congrArg State.phase (inChunk_frame s b0 bs) :)
@[simp] theorem inChunk_tag : (s.inChunk b0 bs).tag = b0 := (congrArg State.tag (inChunk_frame s b0 bs) :)
@[simp] theorem inChunk_plen : (s.inChunk b0 bs).plen = plenOf b0 := (congrArg State.plen (inChunk_frame s b0 bs) :)
@[simp] theorem inChunk_cur : (s.inChunk b0 bs).cur = s.cur := (congrArg State.cur (inChunk_frame s b0 bs) :)
@[simp] theorem inChunk_cache : (s.inChunk b0 bs).cache = s.cache := (congrArg State.cache (inChunk_frame s b0 bs) :)
@[simp] theorem inChunk_source : (s.inChunk b0 bs).source = s.source := (congrArg State.source (inChunk_frame s b0 bs) :)

/-- Taking a byte from the source does not look at the latched bytes. -/
theorem consumeByte_inChunk (rest : List Byte) :
    consumeByte rest (s.inChunk b0 bs) = (consumeByte rest s).inChunk b0 bs := by
  induction bs using List.reverseRecOn with
  | nil => rfl
  | append_singleton bs v ih =>
    rw [inChunk_concat, inChunk_concat, ← ih]
    rfl

end

/-- 10_state.md R27: PCNT counts the latched payload bytes. -/
theorem inChunk_pcnt_toNat (s : State) (b0 : Byte) {bs : List Byte} (h : bs.length ≤ 4) :
    (s.inChunk b0 bs).pcnt.toNat = bs.length := by
  induction bs using List.reverseRecOn with
  | nil => rfl
  | append_singleton bs v ih =>
    rw [List.length_append, List.length_singleton] at h ⊢
    have hcnt := ih (by omega)
    rw [inChunk_concat, latchPayload_pcnt]
    bv_omega

/-- 41_tokenizer.md R84: PBUF holds the latched payload bytes. -/
theorem inChunk_pbuf_take (s : State) (b0 : Byte) {bs : List Byte} (h : bs.length ≤ 4) :
    (s.inChunk b0 bs).pbuf.toList.take bs.length = bs := by
  induction bs using List.reverseRecOn with
  | nil => rfl
  | append_singleton bs v ih =>
    rw [List.length_append, List.length_singleton] at h ⊢
    rw [inChunk_concat, latchPayload_pbuf, inChunk_pcnt_toNat s b0 (by omega),
      take_setIfInBounds _ (by omega), ih (by omega)]

/-- 41_tokenizer.md R87: the chunk in hand is the bytes latched and the byte that is read. -/
theorem inChunk_chunkWith (s : State) (b0 : Byte) {bs : List Byte} (h : bs.length ≤ 4) (v : Byte) :
    (s.inChunk b0 bs).chunkWith v = b0 :: (bs ++ [v]) := by
  rw [State.chunkWith, if_neg (by simp), inChunk_tag, inChunk_pcnt_toNat s b0 h, inChunk_pbuf_take s b0 h]

/-- 41_tokenizer.md R84: inside a chunk, the step of a payload byte before the last. -/
theorem step_inChunk {s : State} {b0 v : Byte} {bs rest : List Byte} (hlt : bs.length + 1 < (plenOf b0).toNat)
    (hs : s.source.pending = v :: rest) :
    step (s.inChunk b0 bs) = .next ((consumeByte rest s).inChunk b0 (bs ++ [v])) := by
  have hle := plenOf_le b0
  rw [inChunk_concat, ← consumeByte_inChunk]
  exact step_payloadByte (by simp) (by rwa [inChunk_pcnt_toNat s b0 (by omega), inChunk_plen]) (by rwa [inChunk_plen])
    (by rwa [inChunk_source])

/-- 41_tokenizer.md R84, R86: inside a chunk, the step of its last byte. -/
theorem step_inChunk_last {s : State} {b0 v : Byte} {bs rest : List Byte} {i : Instr}
    (hs : s.source.pending = v :: rest)
    (hd : decode (b0 :: (bs ++ [v])) = .ok (i, [])) :
    step (s.inChunk b0 bs) = applyChunk i ((consumeByte rest s).inChunk b0 (bs ++ [v])) := by
  have hle := plenOf_le b0
  have hlen := length_payload_of_decode hd
  rw [List.length_append, List.length_singleton] at hlen
  have hcnt := inChunk_pcnt_toNat s b0 (bs := bs) (by omega)
  have hen : enabled (s.inChunk b0 bs) = true := by
    simp [enabled, hcnt]
    omega
  rw [step_appliesChunk (.inr ⟨by simp, by simp⟩) hen (by rwa [inChunk_source])
    (by rwa [inChunk_chunkWith s b0 (by omega)]), State.chunkRead, if_neg (by simp), consumeByte_inChunk, inChunk_concat]

/-- 41_tokenizer.md R83, R84: the tag and payload bytes before the last are latched one after the other. -/
theorem reaches_inChunk {s : State} {b0 : Byte} {bs rest : List Byte} (hp : s.phase = .tag)
    (hem : s.emitted.toNat < s.total.toNat) (hlt : bs.length < (plenOf b0).toNat)
    (hs : s.source.pending = b0 :: (bs ++ rest)) :
    reaches (bs.length + 1) s ((consumeBytes (bs.length + 1) rest s).inChunk b0 bs) := by
  induction bs using List.reverseRecOn generalizing rest with
  | nil =>
    have hne : plenOf b0 ≠ 0 := fun h0 => absurd hlt (by rw [h0]; decide)
    exact reaches_one (step_multiByteTag hp hem hs hne)
  | append_singleton bs v ih =>
    rw [List.length_append, List.length_singleton] at hlt ⊢
    rw [List.append_assoc] at hs
    have hrun := ih (by omega) hs
    have hstep := step_inChunk (s := consumeBytes (bs.length + 1) (v :: rest) s) hlt rfl
    exact reaches_add hrun (reaches_one hstep)

/-! ### A whole chunk -/

/-- `s` with the chunk's effect that `t` shows, and then PHASE is EMIT (41_tokenizer.md R86). -/
def State.applied (s t : State) : State :=
  { s with phase := .emit, cur := t.cur, cache := t.cache, rep := t.rep }

theorem applyChunk_congr {i : Instr} {s s' t : State} (h : exec i s = .next t) (hcur : s'.cur = s.cur)
    (hcache : s'.cache = s.cache) : applyChunk i s' = .next (s'.applied t) :=
  applyChunk_of_exec (exec_congr h hcur hcache)

/-- 41_tokenizer.md R87: from a chunk boundary a chunk takes its bytes, and then it has been applied. -/
theorem reaches_applied {i : Instr} {b0 : Byte} {payload rest : List Byte} {s t : State}
    (hd : decode (b0 :: payload) = .ok (i, [])) (hp : s.phase = .tag) (hem : s.emitted.toNat < s.total.toNat)
    (hs : s.source.pending = b0 :: (payload ++ rest)) (ht : exec i s = .next t) :
    reaches (payload.length + 1) s (((consumeBytes (payload.length + 1) rest s).inChunk b0 payload).applied t) := by
  obtain rfl | ⟨bs, v, rfl⟩ := payload.eq_nil_or_concat'
  · have hstep := step_singleByteChunk hp hem hs hd
    exact reaches_one (hstep.trans (applyChunk_congr ht rfl rfl))
  · rw [List.append_assoc] at hs
    have hlen := length_payload_of_decode hd
    rw [List.length_append, List.length_singleton] at hlen ⊢
    have hrun := reaches_inChunk hp hem (by omega) hs
    have hstep := step_inChunk_last (s := consumeBytes (bs.length + 1) (v :: rest) s) rfl hd
    exact reaches_add hrun (reaches_one (hstep.trans (applyChunk_congr ht (inChunk_cur ..) (inChunk_cache ..))))

/-- Settles O22: the state that the chunk's bytes lead to shows every register. -/
theorem chunkTakesItsBytesAndIsApplied : Obligations.ChunkTakesItsBytesAndIsApplied := by
  intro i e rest s t he hp hem hs ht
  have hd := decode_encode he []
  rw [List.append_nil] at hd
  cases e with
  | nil => cases hd
  | cons b0 payload =>
    refine ⟨_, reaches_applied hd hp hem hs ht, rfl, rfl, rfl, rfl, ?_⟩
    rw [inChunk_frame]
    exact ⟨rfl, rfl, rfl, rfl, rfl, rfl, rfl⟩

/-! ### A placed chunk -/

@[simp] theorem owePixel_cur (s : State) : (owePixel s).cur = s.cur := by rw [owePixel]; split <;> rfl
@[simp] theorem owePixel_cache (s : State) : (owePixel s).cache = s.cache := by rw [owePixel]; split <;> rfl
@[simp] theorem owePixel_source (s : State) : (owePixel s).source = s.source := by rw [owePixel]; split <;> rfl

/-- 41_tokenizer.md R82: a pixel is owed. -/
theorem owePixel_emitted_lt_total (s : State) : (owePixel s).emitted.toNat < (owePixel s).total.toNat := by
  rw [owePixel]
  split
  · assumption
  · exact Nat.one_pos

theorem placeBytes_singleByteChunk (s : State) {b0 : Byte} (h : (plenOf b0).toNat = 0) (rest : List Byte) :
    placeBytes (b0 :: rest) s = setPhase .tag (pushSource [b0] (owePixel s)) := by
  simp [placeBytes, h]

theorem placeBytes_multiByteChunk (s : State) {b0 : Byte} {bs : List Byte} (h : (plenOf b0).toNat = bs.length + 1) (v : Byte)
    (rest : List Byte) :
    placeBytes (b0 :: (bs ++ v :: rest)) s = (pushSource [v] (owePixel s)).inChunk b0 bs := by
  simp [placeBytes, h, State.inChunk]

/-- Where a chunk has been placed, the next step applies it and leaves the source as it was before the placing
(log entry 13). -/
theorem step_placeBytes {i : Instr} {b0 : Byte} {payload : List Byte} {s u : State}
    (hd : decode (b0 :: payload) = .ok (i, [])) (hu : exec i s = .next u) (rest : List Byte) :
    ∃ t : State, step (placeBytes (b0 :: (payload ++ rest)) s) = .next (t.applied u) ∧ t.source = s.source := by
  have hlen := length_payload_of_decode hd
  obtain rfl | ⟨bs, v, rfl⟩ := payload.eq_nil_or_concat'
  · rw [placeBytes_singleByteChunk s hlen.symm]
    have hstep := step_singleByteChunk (s := setPhase .tag (pushSource [b0] (owePixel s))) rfl
      (owePixel_emitted_lt_total s) rfl hd
    exact ⟨_, hstep.trans (applyChunk_congr hu (owePixel_cur s) (owePixel_cache s)), owePixel_source s⟩
  · rw [List.length_append, List.length_singleton] at hlen
    rw [List.append_assoc, List.singleton_append, placeBytes_multiByteChunk s hlen.symm]
    have hstep := step_inChunk_last (s := pushSource [v] (owePixel s)) rfl hd
    exact ⟨_, hstep.trans (applyChunk_congr hu ((inChunk_cur ..).trans (owePixel_cur s))
      ((inChunk_cache ..).trans (owePixel_cache s))), (inChunk_source ..).trans (owePixel_source s)⟩

/-- Settles O55: the word's bytes begin with the encoding of its instruction, and that chunk is the one placed. -/
theorem placedWordRunsFirst : Obligations.PlacedWordRunsFirst := by
  intro nbits w i h
  rw [decodeTableWord] at h
  split at h <;> cases h
  next rest hword =>
  obtain ⟨u, hu⟩ := exists_exec_of_decode hword State.reset
  obtain ⟨e, he, hbytes⟩ := encode_of_decode hword
  have hd := decode_encode he []
  rw [List.append_nil] at hd
  cases e with
  | nil => cases hd
  | cons b0 payload =>
    obtain ⟨t, hstep, hsource⟩ := step_placeBytes hd hu rest
    refine ⟨t.applied u, u, ?_, hu, rfl, rfl, rfl, rfl, hsource⟩
    rw [State.withFetchWord, hbytes]
    exact hstep

end Sys2Proof.Machine
end

section
/-! PROOFS. The explicit-colour chunks (42_color_chunks.md), and what becomes of alpha under any chunk. -/
namespace Sys2Proof.Machine

/-! ### The chunk's effect, inverted -/

/-- 43_index_cache.md R93: a chunk with a new pixel commits it. -/
theorem exec_of_newPixel {i : Instr} {s : State} {new : Pixel} (h : newPixel i s = some new) :
    exec i s = .next (commit new s) := by
  cases i with
  | run n => cases h
  | _ => cases h; rfl

/-- A chunk with an effect has an encoding: exec refuses the others (30_encoding.md R74, log entry 8). -/
theorem wellFormed_of_exec {i : Instr} {s t : State} (h : exec i s = .next t) : i.wellFormed = true := by
  cases i with
  | run n =>
    by_contra hi
    have hrefused : exec (.run n) s = .refused (.noEncoding "RUN") := if_neg (by simpa [Instr.wellFormed] using hi)
    cases hrefused.symm.trans h
  | _ => rfl

/-- The state after a chunk: a commit of its new pixel, or the state before with another REP
(43_index_cache.md R93, 45_run_chunk.md R97). -/
theorem exec_next_cases {i : Instr} {s t : State} (h : exec i s = .next t) :
    (∃ new, newPixel i s = some new ∧ t = commit new s) ∨
    ∃ n : BitVec 6, i = .run n ∧ n.toNat ≤ 61 ∧ t = { s with rep := n + 1 } := by
  obtain ⟨new, hnew, he⟩ | ⟨n, hi, hn, he⟩ := exec_cases (wellFormed_of_exec h) s <;> cases he.symm.trans h
  · exact .inl ⟨new, hnew, rfl⟩
  · exact .inr ⟨n, hi, hn, rfl⟩

/-! ### Explicit colours -/

/-- Settles O8. -/
theorem rgbSetsColourAndKeepsAlpha : Obligations.RgbSetsColourAndKeepsAlpha :=
  fun r g b _ => ⟨decode_encode (e := [0xFE, r, g, b]) rfl, exec_of_newPixel rfl⟩

/-- Settles O9. -/
theorem rgbaSetsAllChannels : Obligations.RgbaSetsAllChannels :=
  fun r g b a _ => ⟨decode_encode (e := [0xFF, r, g, b, a]) rfl, exec_of_newPixel rfl⟩

/-! ### Alpha -/

/-- The new pixel of RGB, DIFF and LUMA takes its alpha from CUR (42_color_chunks.md R88, 44_delta_chunks.md R95, R96). -/
theorem newPixel_alpha {i : Instr} {s : State} {new : Pixel} (h : newPixel i s = some new) :
    new.a = s.cur.a ∨ (∃ r g b a, i = .rgba r g b a) ∨ ∃ k, i = .index k := by
  cases i with
  | rgba r g b a => exact .inr (.inl ⟨r, g, b, a, rfl⟩)
  | index k => exact .inr (.inr ⟨k, rfl⟩)
  | rgb _ _ _ | diff _ _ _ | luma _ _ _ => cases h; exact .inl rfl
  | run _ => cases h

/-- Settles O16: a commit takes alpha from the new pixel, and a RUN leaves CUR as it is. -/
theorem onlyRgbaAndIndexChangeAlpha : Obligations.OnlyRgbaAndIndexChangeAlpha := by
  intro i s t h hne
  obtain ⟨new, hnew, rfl⟩ | ⟨n, -, -, rfl⟩ := exec_next_cases h
  · exact (newPixel_alpha hnew).resolve_left hne
  · exact absurd rfl hne

end Sys2Proof.Machine
end

section
/-! PROOFS. The cache index and INDEX, and the frame of every chunk (43_index_cache.md R90 to R94). -/
namespace Sys2Proof.Machine

/-! ### The cache index -/

/-- Settles O5. The bound: no channel is above 255. -/
theorem hashIsWeightedSumMod64 : Obligations.HashIsWeightedSumMod64 :=
  fun p => ⟨pixelHash_toNat p, by omega⟩

/-- Settles O6: 64 divides `2 ^ k`, so wrapping at `k` bits keeps every term and sum modulo 64. -/
theorem hashIsExactInAnyWidthFromSix : Obligations.HashIsExactInAnyWidthFromSix := by
  intro p k hk
  have hdvd : 64 ∣ 2 ^ k := Nat.pow_dvd_pow 2 hk
  have hwrap (n : Nat) : n % 2 ^ k ≡ n [MOD 64] := (Nat.mod_modEq n (2 ^ k)).of_dvd hdvd
  have hsum {a b a' b' : Nat} (ha : a ≡ a' [MOD 64]) (hb : b ≡ b' [MOD 64]) : (a + b) % 2 ^ k ≡ a' + b' [MOD 64] :=
    (hwrap _).trans (ha.add hb)
  rw [pixelHash_toNat, Nat.add_assoc (p.r.toNat * 3 + p.g.toNat * 5)]
  exact (hsum (hsum (hwrap _) (hwrap _)) (hsum (hwrap _) (hwrap _))).symm

/-! ### INDEX -/

/-- 43_index_cache.md R90. -/
theorem exec_index (i : BitVec 6) (s : State) : exec (.index i) s = .next (commit (cacheRead i s) s) :=
  exec_of_newPixel rfl

/-- 30_encoding.md R74: the tag's top bits are 00, so the tag is the slot's number. -/
theorem encode_index (i : BitVec 6) : encode (.index i) = some [BitVec.ofNat 8 i.toNat] :=
  encode_eq_some.2 ⟨rfl, congrArg ([·]) (indexTag_eq_ofNat i)⟩

/-- Settles O10, from the chunk's encoding and its effect. -/
theorem indexReturnsStoredPixel : Obligations.IndexReturnsStoredPixel :=
  fun i s => ⟨cacheRead i s, rfl, decode_encode (encode_index i), exec_index i s⟩

/-- The reset value of a slot belongs to slot 0 (43_index_cache.md R94). -/
theorem pixelHash_clear : pixelHash ⟨0, 0, 0, 0⟩ = 0 := by decide

/-- Settles O17: the first INDEX commits the clear pixel to slot 0, and the second reads it there. -/
theorem indexOfClearSlotEvictsSlotZero : Obligations.IndexOfClearSlotEvictsSlotZero := by
  refine ⟨by decide, fun j s _ hclear => ?_⟩
  have hslot : cacheRead 0 (commit ⟨0, 0, 0, 0⟩ s) = ⟨0, 0, 0, 0⟩ :=
    (cacheRead_commit 0 _ s).trans (if_pos pixelHash_clear.symm)
  exact ⟨commit ⟨0, 0, 0, 0⟩ s, _, hclear ▸ exec_index j s, rfl, hslot, exec_index 0 _, hslot⟩

/-! ### The frame of every chunk -/

/-- Settles O15: a chunk with a new pixel is a commit of it, and a RUN writes REP alone. -/
theorem chunkChangesOnlyCurCacheSlotAndRep : Obligations.ChunkChangesOnlyCurCacheSlotAndRep := by
  intro i s t h
  obtain ⟨new, hnew, rfl⟩ | ⟨n, rfl, -, rfl⟩ := exec_next_cases h
  · refine ⟨fun _ => rfl, ?_⟩
    rintro n rfl
    cases hnew
  · exact ⟨fun hne => absurd rfl (hne n), fun _ _ => rfl⟩

end Sys2Proof.Machine
end

section
/-! PROOFS. The delta chunks DIFF and LUMA (44_delta_chunks.md R95, R96): the wrapping lanes as integers modulo 256. -/
namespace Sys2Proof.Machine

/-! ### Lanes -/

/-- 00_scope.md R11: a difference may be negative before the reduction. -/
theorem subW_toNat_int (x y : Byte) : ((subW x y).toNat : Int) = ((x.toNat : Int) - y.toNat) % 256 := by
  rw [subW_toNat]
  omega

/-- 00_scope.md R12: a lane that adds a raw field and takes off its bias. -/
theorem biasedLane_toNat_int {w : Nat} (hw : w ≤ 8) (c bias : Byte) (raw : BitVec w) :
    ((subW (addW c (raw.setWidth 8)) bias).toNat : Int) = ((c.toNat : Int) + raw.toNat - bias.toNat) % 256 := by
  rw [subW_toNat_int, addW_toNat, BitVec.toNat_setWidth_of_le hw]
  omega

/-- 44_delta_chunks.md R95. -/
theorem diffChannel_toNat_int (c : Byte) (raw : BitVec 2) :
    ((diffChannel c raw).toNat : Int) = (c.toNat + raw.toNat - 2) % 256 :=
  biasedLane_toNat_int (by decide) c 2 raw

/-- 44_delta_chunks.md R96: adding `vg` as a byte is adding `dg - 32`. -/
theorem addW_lumaGreen_toNat_int (c : Byte) (dg : BitVec 6) :
    ((addW c (lumaGreen dg)).toNat : Int) = (c.toNat + (dg.toNat - 32 : Int)) % 256 := by
  rw [addW_toNat, lumaGreen_toNat]
  omega

/-- 44_delta_chunks.md R96: the field is relative to the green delta. -/
theorem lumaChannel_toNat_int (c : Byte) (dg : BitVec 6) (raw : BitVec 4) :
    ((lumaChannel c (lumaGreen dg) raw).toNat : Int) = (c.toNat + (dg.toNat - 32 : Int) + raw.toNat - 8) % 256 := by
  have hlane : ((lumaChannel c (lumaGreen dg) raw).toNat : Int) = ((addW c (lumaGreen dg)).toNat + raw.toNat - 8) % 256 :=
    biasedLane_toNat_int (by decide) (addW c (lumaGreen dg)) 8 raw
  rw [hlane, addW_lumaGreen_toNat_int, Int.add_sub_assoc, Int.emod_add_emod, Int.add_sub_assoc]

/-! ### The chunks -/

/-- 30_encoding.md R74: one tag byte with the three raw fields. -/
theorem encode_diff (dr dg db : BitVec 2) :
    encode (.diff dr dg db) = some [BitVec.ofNat 8 (0x40 + dr.toNat * 16 + dg.toNat * 4 + db.toNat)] :=
  encode_eq_some.2 ⟨rfl, congrArg ([·]) (diffTag_eq_ofNat dr dg db)⟩

/-- 30_encoding.md R74: the green field in the tag byte, the other two in the payload byte. -/
theorem encode_luma (dg : BitVec 6) (drdg dbdg : BitVec 4) : encode (.luma dg drdg dbdg) =
    some [BitVec.ofNat 8 (0x80 + dg.toNat), BitVec.ofNat 8 (drdg.toNat * 16 + dbdg.toNat)] :=
  encode_eq_some.2 ⟨rfl, congrArg₂ ([·, ·]) (lumaTag_eq_ofNat dg) (lumaPayload_eq_ofNat drdg dbdg)⟩

/-- Settles O11, from the three lanes of the new pixel, the chunk's encoding and its effect. -/
theorem diffAddsBiasedDeltas : Obligations.DiffAddsBiasedDeltas :=
  fun dr dg db s => ⟨⟨_, _, _, s.cur.a⟩, diffChannel_toNat_int s.cur.r dr, diffChannel_toNat_int s.cur.g dg,
    diffChannel_toNat_int s.cur.b db, rfl, decode_encode (encode_diff dr dg db), exec_of_newPixel rfl⟩

/-- Settles O12, from the three lanes of the new pixel, the chunk's encoding and its effect. -/
theorem lumaAddsRelativeDeltas : Obligations.LumaAddsRelativeDeltas :=
  fun dg drdg dbdg s => ⟨_, ⟨_, _, _, s.cur.a⟩, rfl, lumaChannel_toNat_int s.cur.r dg drdg,
    addW_lumaGreen_toNat_int s.cur.g dg, lumaChannel_toNat_int s.cur.b dg dbdg, rfl,
    decode_encode (encode_luma dg drdg dbdg), exec_of_newPixel rfl⟩

end Sys2Proof.Machine
end

section
/-! PROOFS. The pixels of a chunk, sent one after the other (46_framing.md R99), and RUN (45_run_chunk.md R97, R98). -/
namespace Sys2Proof.Machine

/-! ### Emitting -/

/-- 46_framing.md R99: the step from EMIT while the consumer takes every pixel. -/
theorem step_emit_always {s : State} (hp : s.phase = .emit) (hr : 1 ≤ s.rep.toNat) (hlt : s.emitted.toNat < s.total.toNat)
    (hd : s.demand = .always) : step s = .next (afterEmit (takePixel .always s)) := by
  have hen : enabled s = true := by simp [enabled, hp, hr, hlt]
  rw [step_emit hen hp, emitStep, emitCur, hd]

/-- 46_framing.md R99, R100: the pixels that a chunk owes go out, up to TOTAL, and the frame of these steps. -/
theorem reaches_owedPixels {s : State} {k : Nat} (hp : s.phase = .emit) (hr : 1 ≤ s.rep.toNat)
    (hlt : s.emitted.toNat < s.total.toNat) (hd : s.demand = .always)
    (hk : k = min s.rep.toNat (s.total.toNat - s.emitted.toNat)) :
    ∃ t, reaches k s t ∧ t.out = s.out ++ List.replicate k s.cur ∧ t.emitted.toNat = s.emitted.toNat + k ∧
      t.phase = (if s.total.toNat ≤ s.emitted.toNat + s.rep.toNat then .trailer else .tag) ∧ t.rep = 0 ∧
      t = { s with
        emitted := t.emitted, out := t.out, demand := t.demand, phase := t.phase, rep := t.rep, tcnt := t.tcnt } := by
  induction k generalizing s with
  | zero => omega
  | succ k ih =>
    have hstep := step_emit_always hp hr hlt hd
    have hem : (s.emitted + 1).toNat = s.emitted.toNat + 1 := by bv_omega
    have hrep : (s.rep - 1).toNat = s.rep.toNat - 1 := BitVec.toNat_sub_of_le hr
    obtain ⟨he, e⟩ | ⟨he, hr0, e⟩ | ⟨he, hr0, e⟩ := afterEmit_cases (takePixel .always s) <;>
      rw [e] at hstep <;> rw [takePixel_emitted, takePixel_total] at he
    · have htot : s.total.toNat = s.emitted.toNat + 1 := by rw [← he, hem]
      obtain rfl : k = 0 := by omega
      exact ⟨_, reaches_one hstep, rfl, hem, (if_pos (by omega)).symm, rfl, rfl⟩
    · have hone : s.rep.toNat = 1 := by rw [takePixel_rep] at hr0; bv_omega
      obtain rfl : k = 0 := by omega
      exact ⟨_, reaches_one hstep, rfl, hem, (if_neg (by bv_omega)).symm, rfl, rfl⟩
    · have hr1 : 1 ≤ (s.rep - 1).toNat := by rw [takePixel_rep] at hr0; bv_omega
      have hlt' : (s.emitted + 1).toNat < s.total.toNat := by bv_omega
      have hk' : k = min (s.rep - 1).toNat (s.total.toNat - (s.emitted + 1).toNat) := by omega
      have hsum : (s.emitted + 1).toNat + (s.rep - 1).toNat = s.emitted.toNat + s.rep.toNat := by omega
      obtain ⟨t, ht, hout, hemt, hphase, hrept, hframe⟩ :=
        ih (s := { takePixel .always s with rep := s.rep - 1 }) hp hr1 hlt' rfl hk'
      refine ⟨t, reaches_succ.2 ⟨_, hstep, ht⟩, ?_, ?_, ?_, hrept, hframe⟩
      · rw [hout, takePixel_out, takePixel_cur, List.append_assoc, List.singleton_append, List.replicate_succ]
      · rw [hemt, takePixel_emitted, hem, Nat.add_right_comm, Nat.add_assoc]
      · rw [hphase, takePixel_total, takePixel_emitted, hsum]

/-! ### RUN -/

/-- 45_run_chunk.md R97. -/
theorem exec_run {n : BitVec 6} (hn : n.toNat ≤ 61) (s : State) :
    exec (.run n) s = .next { s with rep := runCount n } :=
  if_pos hn

/-- 30_encoding.md R74: one tag byte, whose top bits are 11. -/
theorem encode_run {n : BitVec 6} (hn : n.toNat ≤ 61) : encode (.run n) = some [BitVec.ofNat 8 (0xC0 + n.toNat)] :=
  encode_eq_some.2 ⟨decide_eq_true hn, congrArg ([·]) (runTag_eq_ofNat n)⟩

/-- `s` after the step of the tag of RUN(n), `rest` being what the source still holds (41_tokenizer.md R83, R86). -/
def State.runApplied (s : State) (n : BitVec 6) (rest : List Byte) : State :=
  let b0 := BitVec.ofNat 8 (0xC0 + n.toNat)
  setPhase .emit { latchTag b0 (plenOf b0) (consumeByte rest s) with rep := runCount n }

theorem step_run {n : BitVec 6} {s : State} {rest : List Byte} (hn : n.toNat ≤ 61) (hp : s.phase = .tag)
    (hlt : s.emitted.toNat < s.total.toNat) (hs : s.source.pending = BitVec.ofNat 8 (0xC0 + n.toNat) :: rest) :
    step s = .next (s.runApplied n rest) :=
  (step_singleByteChunk hp hlt hs (decode_encode (encode_run hn) [])).trans (applyChunk_of_exec (exec_run hn _))

/-- Settles O30: the tag's step sets REP, and then the pixels owed go out. -/
theorem runEmitsCopiesOfCur : Obligations.RunEmitsCopiesOfCur := by
  intro s n rest k hp hlt hd hn hs hk
  have hrep : (s.runApplied n rest).rep.toNat = n.toNat + 1 := runCount_toNat hn
  obtain ⟨t, ht, hout, -, hphase, -, hframe⟩ :=
    reaches_owedPixels (s := s.runApplied n rest) (k := k) rfl (by omega) hlt hd (by rwa [hrep])
  refine ⟨t, reaches_add (reaches_one (step_run hn hp hlt hs)) ht, hout, ?_⟩
  rw [hrep] at hphase
  rw [hframe]
  exact ⟨rfl, rfl, rfl, rfl, rfl, hphase⟩

/-- Settles O13: no slot is written, so INDEX(53) reads the reset value. -/
theorem runSetsRepOnly : Obligations.RunSetsRepOnly := by
  refine ⟨fun n s hn => ⟨_, exec_run hn s, runCount_toNat hn, rfl⟩, fun n hn => ?_⟩
  exact ⟨_, _, exec_run hn _, exec_index 53 _, rfl, cacheRead_hostReset 53 ⟨[], false⟩ .always State.reset⟩

end Sys2Proof.Machine
end

section
/-! PROOFS. The emit step and the trailer check step, the final phases, and the decoded image (46_framing.md R99 to R105). -/
namespace Sys2Proof.Machine

/-! ### The emit step -/

/-- 20_memory.md R50: the consumer takes a pixel, and `d` is the demand it has left. -/
theorem emitCur_takes {s : State} {d : Demand}
    (hd : (s.demand = .always ∧ d = .always) ∨ ∃ n, s.demand = .count (n + 1) ∧ d = .count n) :
    emitCur s = some (takePixel d s) := by
  obtain ⟨hd, rfl⟩ | ⟨n, hd, rfl⟩ := hd <;> rw [emitCur, hd]

/-- Settles O28, by the three branches of R99. -/
theorem emitStepSendsCur : Obligations.EmitStepSendsCur := by
  intro s d hp hr hlt hd
  have hen : enabled s = true := by simp [enabled, hp, hr, hlt]
  have hem : (s.emitted + 1).toNat = s.emitted.toNat + 1 := by bv_omega
  have hrep : (s.rep - 1).toNat = s.rep.toNat - 1 := BitVec.toNat_sub_of_le hr
  have hlast : s.emitted + 1 = s.total ↔ s.emitted.toNat + 1 = s.total.toNat := by rw [← hem, BitVec.toNat_inj]
  have hone : s.rep - 1 = 0 ↔ s.rep.toNat = 1 := by bv_omega
  have hstep : step s = .next (afterEmit (takePixel d s)) := by rw [step_emit hen hp, emitStep, emitCur_takes hd]
  obtain ⟨he, e⟩ | ⟨he, h0, e⟩ | ⟨he, h0, e⟩ := afterEmit_cases (takePixel d s) <;> rw [e] at hstep
  · exact ⟨_, hstep, hem, rfl, rfl, by rw [if_pos (hlast.1 he)]; exact ⟨rfl, rfl, rfl⟩, rfl⟩
  · exact ⟨_, hstep, hem, rfl, rfl, by rw [if_neg (mt hlast.2 he), if_pos (hone.1 h0)]; exact ⟨rfl, rfl, rfl⟩, rfl⟩
  · exact ⟨_, hstep, hem, rfl, rfl, by rw [if_neg (mt hlast.2 he), if_neg (mt hone.2 h0)]; exact ⟨hp, hrep, rfl⟩, rfl⟩

/-- Settles O29: the pixels owed go out, and their steps touch neither the source, BPOS, CUR, CACHE nor ERR. -/
theorem chunkPixelsGoOutTogether : Obligations.ChunkPixelsGoOutTogether := by
  intro s k hp hr hlt hd hk
  obtain ⟨t, ht, hout, hem, hphase, hrep, hframe⟩ := reaches_owedPixels hp hr hlt hd hk
  refine ⟨t, ht, hout, hem, hphase, hrep, ?_⟩
  rw [hframe]
  exact ⟨rfl, rfl, rfl, rfl, rfl⟩

/-! ### The trailer check step -/

/-- 30_encoding.md R60: the trailer's bytes are 0, but the last is 1. -/
theorem trailerByte_eq_ite : ∀ {k : BitVec 4}, k.toNat < 8 → trailerByte k = if k.toNat = 7 then 0x01 else 0x00 := by
  decide

/-- 46_framing.md R101, when the source has a byte. -/
theorem step_trailer_byte {s : State} {v : Byte} {rest : List Byte} (hp : s.phase = .trailer) (h8 : s.tcnt.toNat ≤ 8)
    (hs : s.source.pending = v :: rest) :
    step s = if s.tcnt.toNat < 8 ∧ v = trailerByte s.tcnt then .next { consumeByte rest s with tcnt := s.tcnt + 1 }
      else .next (raise .trailerMismatch (consumeByte rest s)) := by
  have hen : enabled s = true := by simpa [enabled, hp] using h8
  rw [step_trailer hen hp, trailerStep_byte hs]

/-- 46_framing.md R101, at `End`. -/
theorem step_trailer_end {s : State} (hp : s.phase = .trailer) (h8 : s.tcnt.toNat ≤ 8) (hs : s.source.pending = [])
    (he : s.source.ended = true) :
    step s = .next (if s.tcnt.toNat = 8 then setPhase .done s else raise .trailerMismatch s) := by
  have hen : enabled s = true := by simpa [enabled, hp] using h8
  rw [step_trailer hen hp, trailerStep, byteRead_ended.2 ⟨hs, he⟩]
  split_ifs
  · omega
  · rfl
  · rfl
  · omega

/-- Settles O31: `End`, or a byte that is the trailer's at TCNT or is not. -/
theorem trailerStepComparesOneByte : Obligations.TrailerStepComparesOneByte := by
  intro s hp h8
  refine ⟨fun hs he => step_trailer_end hp h8 hs he, fun v rest hs => ?_⟩
  have hmatch : (s.tcnt.toNat < 8 ∧ v = trailerByte s.tcnt) ↔
      (s.tcnt.toNat < 8 ∧ v = if s.tcnt.toNat = 7 then 0x01 else 0x00) :=
    and_congr_right fun hlt => by rw [trailerByte_eq_ite hlt]
  rw [step_trailer_byte hp h8 hs, if_congr hmatch rfl rfl, apply_ite Host.Outcome.next]
  rfl

/-! ### The final phases -/

/-- 46_framing.md R103: a run from DONE or ERROR stays there. -/
theorem reaches_final {s : State} (hf : s.final) (k : Nat) : reaches k s s := by
  induction k with
  | zero => exact reaches_zero.2 rfl
  | succ k ih => exact reaches_succ.2 ⟨s, step_final hf, ih⟩

/-- A run that has ended stays where it is. -/
theorem reaches_of_le {m n : Nat} {s t : State} (h : reaches m s t) (hf : t.final) (hle : m ≤ n) : reaches n s t := by
  obtain ⟨k, rfl⟩ := Nat.exists_eq_add_of_le hle
  exact reaches_add h (reaches_final hf k)

/-- Settles O34. -/
theorem doneAndErrorLast : Obligations.DoneAndErrorLast := by
  refine fun s k hf => ⟨reaches_final hf k, ?_⟩
  obtain hp | hp := hf <;> rw [status, hp] <;> nofun

/-! ### The decoded image -/

/-- Settles O52: an image is DONE's header and output, and in DONE the output is whole. -/
theorem imageExistsOnlyOnSuccess : Obligations.ImageExistsOnlyOnSuccess := by
  intro s hi
  refine ⟨fun img himg => ?_, fun hp => ⟨_, if_pos hp⟩, fun hp => if_neg (by simp [hp])⟩
  obtain ⟨hp, rfl⟩ := imageOf_eq_some.1 himg
  obtain ⟨hlen, htotal⟩ := hi.done_total hp
  exact ⟨hp, rfl, rfl, hlen.trans htotal⟩

end Sys2Proof.Machine
end

section
/-! PROOFS. The trailer check as a whole (46_framing.md R101, R102): the machine against the reference's trailer loop, and what
that loop answers. -/
namespace Sys2Proof.Machine

/-! ### The reference's trailer loop -/

namespace Reference

section
variable (h : Option Header) (out : List Pixel)

/-- 46_framing.md R102: the trailer loop succeeds exactly on the trailer. -/
theorem trailer_cases (pos : Nat) (ts vs : List Byte) :
    (vs = ts ∧ trailer h out pos ts vs = ⟨.done, .none, out, pos + ts.length, h⟩) ∨
    (vs ≠ ts ∧ ∃ n, trailer h out pos ts vs = ⟨.error, .trailerMismatch, out, n, h⟩) := by
  induction pos, ts, vs using trailer.induct with
  | case1 pos => exact .inl ⟨rfl, rfl⟩
  | case2 pos v vs => exact .inr ⟨nofun, pos + 1, rfl⟩
  | case3 pos t ts => exact .inr ⟨nofun, pos, rfl⟩
  | case4 pos ts v vs ih =>
    rw [trailer, if_pos rfl, List.length_cons, Nat.add_right_comm, Nat.add_assoc] at *
    simpa using ih
  | case5 pos t ts v vs hne => exact .inr ⟨by simp [hne], pos + 1, by rw [trailer, if_neg hne]⟩

/-- The trailer loop keeps the pixels and the header, and an answer of DONE has no error (46_framing.md R104). -/
theorem trailer_frame (pos : Nat) (ts vs : List Byte) :
    (trailer h out pos ts vs).out = out ∧ (trailer h out pos ts vs).header = h ∧
      ((trailer h out pos ts vs).phase = .done → (trailer h out pos ts vs).err = .none) := by
  obtain ⟨-, e⟩ | ⟨-, n, e⟩ := trailer_cases h out pos ts vs <;> rw [e]
  · exact ⟨rfl, rfl, fun _ => rfl⟩
  · exact ⟨rfl, rfl, nofun⟩

/-- 46_framing.md R102: `End` is found after the bytes that match. -/
theorem trailer_pos_of_prefix {pos : Nat} {ts vs : List Byte} (hpre : vs <+: ts) :
    (trailer h out pos ts vs).pos = pos + vs.length := by
  induction pos, ts, vs using trailer.induct with
  | case1 pos => rfl
  | case2 pos v vs => cases List.prefix_nil.1 hpre
  | case3 pos t ts => rfl
  | case4 pos ts v vs ih =>
    rw [trailer, if_pos rfl, ih (List.cons_prefix_cons.1 hpre).2, List.length_cons, Nat.add_right_comm, Nat.add_assoc]
  | case5 pos t ts v vs hne => exact absurd (List.cons_prefix_cons.1 hpre).1 hne

/-- 46_framing.md R102: the first byte that is not the trailer's is the last one read. After the whole trailer, any byte is such
a byte. -/
theorem trailer_pos_of_differs {pos j : Nat} {ts vs : List Byte} {w : Byte} (hpre : vs.take j = ts.take j)
    (hw : vs[j]? = some w) (hne : ts[j]? ≠ some w) : (trailer h out pos ts vs).pos = pos + j + 1 := by
  induction pos, ts, vs using trailer.induct generalizing j with
  | case1 pos => cases hw
  | case2 pos v vs =>
    cases j with
    | zero => rfl
    | succ j => cases hpre
  | case3 pos t ts => cases hw
  | case4 pos ts v vs ih =>
    cases j with
    | zero => exact absurd hw hne
    | succ j =>
      rw [trailer, if_pos rfl, ih (List.cons.inj hpre).2 hw hne, Nat.add_right_comm pos, Nat.add_assoc pos]
  | case5 pos t ts v vs hvt =>
    cases j with
    | zero => rw [trailer, if_neg hvt]
    | succ j => exact absurd (List.cons.inj hpre).1 hvt

end

end Reference

/-! ### The machine's trailer check -/

/-- What the reference's trailer loop answers on the bytes left, from a state that checks the trailer. -/
def State.trailerAnswer (s : State) : Reference.Answer :=
  Reference.trailer (some (headerOf s)) s.out s.bpos (Config.trailer.toList.drop s.tcnt.toNat) s.source.pending

/-- The next byte that the trailer check expects (46_framing.md R101). -/
theorem drop_trailer {k : BitVec 4} (h : k.toNat < 8) :
    Config.trailer.toList.drop k.toNat = trailerByte k :: Config.trailer.toList.drop (k.toNat + 1) := by
  have hlen : k.toNat < Config.trailer.toList.length := h
  rw [List.drop_eq_getElem_cons hlen, trailerByte, List.getD_eq_getElem _ _ hlen]

/-- A step into DONE or ERROR, and any number of steps after it. -/
theorem reaches_last {s t : State} (h : step s = .next t) (hf : t.final) (n : Nat) : reaches (n + 1) s t :=
  reaches_of_le (reaches_one h) hf (Nat.le_add_left 1 n)

/-- 46_framing.md R101, R102: the trailer check ends within one step after the last byte it reads, as the reference's loop does.
In DONE the check has not touched ERR. -/
theorem reaches_trailerAnswer {s : State} (hp : s.phase = .trailer) (h8 : s.tcnt.toNat ≤ 8) (he : s.source.ended = true) :
    ∃ t, reaches (min (8 - s.tcnt.toNat) s.source.pending.length + 1) s t ∧ t.final ∧
      t.phase = s.trailerAnswer.phase ∧ t.bpos = s.trailerAnswer.pos ∧
      t.err = (if t.phase = .done then s.err else s.trailerAnswer.err) ∧ t.out = s.out ∧ headerOf t = headerOf s := by
  induction hvs : s.source.pending generalizing s with
  | nil =>
    have hstep := step_trailer_end hp h8 hvs he
    by_cases h : s.tcnt.toNat = 8
    · rw [if_pos h] at hstep
      rw [State.trailerAnswer, hvs, h]
      exact ⟨_, reaches_last hstep (.inl rfl) _, .inl rfl, rfl, rfl, rfl, rfl, rfl⟩
    · rw [if_neg h] at hstep
      rw [State.trailerAnswer, hvs, drop_trailer (by omega)]
      exact ⟨_, reaches_last hstep (.inr rfl) _, .inr rfl, rfl, rfl, rfl, rfl, rfl⟩
  | cons v vs ih =>
    have hstep := step_trailer_byte hp h8 hvs
    by_cases h : s.tcnt.toNat < 8 ∧ v = trailerByte s.tcnt
    · obtain ⟨hlt, hv⟩ := h
      rw [if_pos ⟨hlt, hv⟩] at hstep
      have hc : (s.tcnt + 1).toNat = s.tcnt.toNat + 1 := by bv_omega
      have hanswer : s.trailerAnswer = State.trailerAnswer { consumeByte vs s with tcnt := s.tcnt + 1 } := by
        rw [State.trailerAnswer, hvs, drop_trailer hlt, Reference.trailer, if_pos hv, State.trailerAnswer, hc]
        rfl
      obtain ⟨t, ht, hend⟩ := ih (s := { consumeByte vs s with tcnt := s.tcnt + 1 }) hp (hc.trans_le hlt) he rfl
      rw [← hanswer] at hend
      refine ⟨t, ?_, hend⟩
      have hsteps : min (8 - s.tcnt.toNat) (v :: vs).length = min (8 - (s.tcnt + 1).toNat) vs.length + 1 := by
        rw [List.length_cons]
        omega
      rw [hsteps]
      exact reaches_succ.2 ⟨_, hstep, ht⟩
    · rw [if_neg h] at hstep
      refine ⟨_, reaches_last hstep (.inr rfl) _, .inr rfl, ?_⟩
      rw [State.trailerAnswer, hvs]
      by_cases hlt : s.tcnt.toNat < 8
      · rw [drop_trailer hlt, Reference.trailer, if_neg (not_and.1 h hlt)]
        exact ⟨rfl, rfl, rfl, rfl, rfl⟩
      · rw [(by omega : s.tcnt.toNat = 8)]
        exact ⟨rfl, rfl, rfl, rfl, rfl⟩

/-- Settles O32: the machine's check is the reference's loop, and that loop's outcomes are R102's rows. -/
theorem trailerOutcomes : Obligations.TrailerOutcomes := by
  intro s bs hp hc hs
  have hpos : s.trailerAnswer = Reference.trailer (some (headerOf s)) s.out s.bpos [0, 0, 0, 0, 0, 0, 0, 1] bs := by
    rw [State.trailerAnswer, hc, hs]
    rfl
  obtain ⟨t, ht, hf, hphase, hbpos, herr, hout, -⟩ := reaches_trailerAnswer hp (by rw [hc]; decide) (by rw [hs])
  rw [hpos] at hphase hbpos herr
  have hrun : reaches 9 s t := reaches_of_le ht hf (by omega)
  have hcases := Reference.trailer_cases (some (headerOf s)) s.out s.bpos [0, 0, 0, 0, 0, 0, 0, 1] bs
  refine ⟨t, hrun, hout, fun heq => ?_, fun hne => ?_, fun _ hpre => ?_, fun j v _ hpre hv hne => ?_, fun hlen hpre => ?_⟩
  · obtain ⟨-, e⟩ | ⟨hne, -⟩ := hcases
    · rw [e] at hphase hbpos
      exact ⟨hphase, by rw [herr, if_pos hphase], hbpos⟩
    · exact absurd heq hne
  · obtain ⟨heq, -⟩ | ⟨-, n, e⟩ := hcases
    · exact absurd heq hne
    · rw [e] at hphase herr
      exact ⟨hphase, by rw [herr, if_neg (by rw [hphase]; nofun)]⟩
  · rw [hbpos, Reference.trailer_pos_of_prefix _ _ (hpre ▸ List.take_prefix _ _)]
  · rw [hbpos, Reference.trailer_pos_of_differs _ _ hpre hv hne]
  · rw [hbpos, Reference.trailer_pos_of_differs _ _ hpre (List.getElem?_eq_getElem hlen) (by simp)]

end Sys2Proof.Machine
end

section
/-! PROOFS. `next_pixel` (46_framing.md R106): a pull runs steps until a pixel has gone out or the decode has ended. -/
namespace Sys2Proof.Machine

/-- MAGIC is read in HDR alone (40_header.md R78). -/
theorem stepWith_of_ne_hdr (magic : Magic) {s : State} (hp : s.phase ≠ .hdr) : stepWith magic s = step s := by
  unfold step stepWith
  split
  · cases h : s.phase with
    | hdr => exact absurd h hp
    | _ => rfl
  · rfl

/-- 46_framing.md R103: a step that HDR answers is a header byte step, whatever MAGIC is. -/
theorem headerStep_of_stepWith {magic : Magic} {s t : State} (hp : s.phase = .hdr) (h : stepWith magic s = .next t) :
    headerStep magic s = .next t := by
  have hen : enabled s = true := by
    by_contra hn
    simp [stepWith, hn] at h
  simpa [stepWith, hen, hp] using h

/-- A step emits CUR or nothing, whatever MAGIC is (20_memory.md R50). -/
theorem stepWith_out {magic : Magic} {s t : State} (h : stepWith magic s = .next t) :
    (t.emitted = s.emitted ∧ t.out = s.out) ∨ (t.emitted = s.emitted + 1 ∧ t.out = s.out ++ [s.cur]) := by
  by_cases hp : s.phase = .hdr
  · have hhdr := headerStep_of_stepWith hp h
    obtain ⟨e, -⟩ | ⟨e, -⟩ | ⟨v, rest, -, ⟨-, e⟩ | ⟨-, e⟩⟩ := headerStep_cases magic s <;> cases e.symm.trans hhdr
    · exact .inl ⟨rfl, rfl⟩
    · exact .inl ⟨rfl, rfl⟩
    · exact .inl ⟨rfl, rfl⟩
    · obtain e | ⟨-, -, -, e⟩ := checkHeader_cases magic (s.headerRead v rest) <;>
        exact .inl ⟨(congrArg State.emitted e :), (congrArg State.out e :)⟩
  · rw [stepWith_of_ne_hdr magic hp] at h
    obtain rfl | ⟨-, -, -, hem, hout, -⟩ | ⟨-, -, -, hem, hout⟩ | ⟨-, -, -, -, -, hem, hout, -⟩ :=
      stepReadsOneByteOrEmitsOnePixel s t h
    · exact .inl ⟨rfl, rfl⟩
    · exact .inl ⟨hem, hout⟩
    · exact .inr ⟨hem, hout⟩
    · exact .inl ⟨hem, hout⟩

/-- 46_framing.md R106: in DONE a pull answers at once. -/
theorem pullFrom_done (magic : Magic) (k : Nat) {s : State} (hp : s.phase = .done) :
    pullFrom magic k s = some (.endOfImage, s) := by
  rw [pullFrom.eq_def]
  simp only [hp]

/-- 46_framing.md R106: in ERROR a pull answers at once. -/
theorem pullFrom_error (magic : Magic) (k : Nat) {s : State} (hp : s.phase = .error) :
    pullFrom magic k s = some (.error s.err, s) := by
  rw [pullFrom.eq_def]
  simp only [hp]

/-- Elsewhere a pull that answers has made a step, which emits CUR, or after which the pull goes on. -/
theorem pullFrom_cases {magic : Magic} {k : Nat} {s : State} {r : Pull × State} (hf : ¬ s.final)
    (h : pullFrom magic k s = some r) :
    ∃ j t, k = j + 1 ∧ stepWith magic s = .next t ∧
      ((t.emitted = s.emitted ∧ pullFrom magic j t = some r) ∨ (t.emitted ≠ s.emitted ∧ r = (.pixel s.cur, t))) := by
  obtain ⟨hd, he⟩ := not_or.1 hf
  rw [pullFrom.eq_def] at h
  dsimp only at h
  split at h
  · contradiction
  · contradiction
  · cases k with
    | zero => cases h
    | succ j =>
      dsimp only at h
      split at h
      next t ht =>
        refine ⟨j, t, rfl, ht, ?_⟩
        split at h
        · exact .inl ⟨‹_›, h⟩
        · exact .inr ⟨‹_›, (Option.some.inj h).symm⟩
      · cases h

/-- The three answers of a pull, each with the state it leaves (46_framing.md R106). -/
theorem pullFrom_answer {magic : Magic} {k : Nat} {s t : State} {a : Pull} (h : pullFrom magic k s = some (a, t)) :
    (∃ p, a = .pixel p ∧ t.out = s.out ++ [p]) ∨
    (a = .endOfImage ∧ t.phase = .done ∧ t.out = s.out) ∨
    (a = .error t.err ∧ t.phase = .error ∧ t.out = s.out) := by
  induction k using Nat.strong_induction_on generalizing s with
  | _ k ih =>
    by_cases hd : s.phase = .done
    · cases (pullFrom_done magic k hd).symm.trans h
      exact .inr (.inl ⟨rfl, hd, rfl⟩)
    by_cases he : s.phase = .error
    · cases (pullFrom_error magic k he).symm.trans h
      exact .inr (.inr ⟨rfl, he, rfl⟩)
    obtain ⟨j, u, rfl, hstep, ⟨hem, hu⟩ | ⟨hem, hr⟩⟩ := pullFrom_cases (not_or.2 ⟨hd, he⟩) h
    · obtain ⟨-, hout⟩ | ⟨hem', -⟩ := stepWith_out hstep
      · rw [← hout]
        exact ih j j.lt_succ_self hu
      · exact absurd (hem.symm.trans hem') (by bv_omega)
    · cases hr
      obtain ⟨hem', -⟩ | ⟨-, hout⟩ := stepWith_out hstep
      · exact absurd hem' hem
      · exact .inl ⟨s.cur, rfl, hout⟩

/-- Settles O54: a pull that has answered without a pixel has left the block in DONE or ERROR, where every further pull answers
at once. -/
theorem nextPixelAnswers : Obligations.NextPixelAnswers := by
  intro magic k s t a h
  obtain ⟨p, rfl, hout⟩ | ⟨rfl, hp, hout⟩ | ⟨rfl, hp, hout⟩ := pullFrom_answer h
  · exact ⟨fun q hq => by cases hq; exact hout, nofun, nofun, fun hne => absurd rfl (hne p)⟩
  · exact ⟨nofun, fun _ => ⟨hp, hout⟩, nofun, fun _ j => ⟨_, pullFrom_done magic j (s := t.setDemand (.count 1)) hp, rfl, rfl⟩⟩
  · exact ⟨nofun, nofun, fun e he => by cases he; exact ⟨hp, rfl, hout⟩,
      fun _ j => ⟨_, pullFrom_error magic j (s := t.setDemand (.count 1)) hp, rfl, rfl⟩⟩

end Sys2Proof.Machine
end

section
/-! PROOFS. The reference's chunk loop (46_framing.md R104), one chunk at a time: what it does with a chunk's bytes is what `exec`
does with the chunk. -/
namespace Sys2Proof

/-- 30_encoding.md R71: bytes that start with a tag are no chunk only when payload bytes are missing. -/
theorem length_lt_of_decode_error {b0 : Byte} {bs : List Byte} {e : DecodeError} (h : decode (b0 :: bs) = .error e) :
    bs.length < (plenOf b0).toNat := by
  by_contra hle
  cases (decode_cons_ok.2 ⟨Nat.not_lt.1 hle, rfl, rfl⟩).symm.trans h

end Sys2Proof

namespace Sys2Proof.Machine.Reference

/-! ### The reference's arithmetic -/

/-- 00_scope.md R11. -/
theorem channel_eq {v : Int} {c : Byte} (hc : (c.toNat : Int) = v % 256) : channel v = c := by
  refine BitVec.eq_of_toNat_eq ?_
  rw [channel, BitVec.toNat_ofInt]
  exact (congrArg Int.toNat hc).symm

/-- 00_scope.md R10. -/
theorem field_eq (b : Byte) (lo width : Nat) : field b lo width = (b.extractLsb' lo width).toNat := by
  rw [field, BitVec.extractLsb'_toNat, Nat.shiftRight_eq_div_pow]

/-- 43_index_cache.md R91, R93: remembering a pixel is committing it. -/
theorem remember_eq (p : Pixel) (s : State) : remember p s.cache = (commit p s).cache := by
  rw [remember, ← pixelHash_toNat, commit_cache]
  ext j hj
  rw [Vector.getElem_setIfInBounds, Vector.getElem_set]

/-- 46_framing.md R99, R104: the repeats add copies of CUR up to TOTAL. -/
theorem emitUpTo_eq (total : Nat) (cur : Pixel) (k : Nat) (out : List Pixel) :
    emitUpTo total cur k out = out ++ List.replicate (min k (total - out.length)) cur := by
  induction k generalizing out with
  | zero => simp [emitUpTo]
  | succ k ih =>
    rw [emitUpTo]
    split
    next hlt =>
      have hk : min (k + 1) (total - out.length) = min k (total - (out ++ [cur]).length) + 1 := by simp; omega
      rw [ih, hk, List.append_assoc, List.singleton_append, List.replicate_succ]
    next hge =>
      rw [ih, Nat.sub_eq_zero_of_le (Nat.not_lt.1 hge), Nat.min_zero, Nat.min_zero]

/-! ### One chunk -/

section
variable (h : Option Header) {total pos : Nat} {out : List Pixel} (rest : List Byte)

/-- 46_framing.md R104: after the last pixel the trailer follows. -/
theorem chunks_of_total_le (cur : Pixel) (cache : Vector Pixel 64) (bs : List Byte) (hge : total ≤ out.length) :
    chunks h total cur cache out pos bs = trailer h out pos Config.trailer.toList bs := by
  cases bs <;> rw [chunks.eq_def] <;> exact if_neg (Nat.not_lt.2 hge)

/-- 46_framing.md R104: bytes that are no whole chunk are a truncation, found at their end. -/
theorem chunks_of_decode_error {bs : List Byte} {e : DecodeError} (cur : Pixel) (cache : Vector Pixel 64)
    (hd : Sys2Proof.decode bs = .error e) (hlt : out.length < total) :
    chunks h total cur cache out pos bs = ⟨.error, .truncated, out, pos + bs.length, h⟩ := by
  cases bs with
  | nil => exact if_pos hlt
  | cons b0 bs =>
    have hshort := length_lt_of_decode_error hd
    obtain ⟨rfl, hp⟩ | ⟨rfl, hp⟩ | ⟨hfe, hff, htop, hp⟩ | ⟨-, -, -, hp⟩ := plenOf_cases b0 <;> rw [hp] at hshort
    · match bs, hshort with
      | [], _ | [_], _ | [_, _], _ => exact if_pos hlt
    · match bs, hshort with
      | [], _ | [_], _ | [_, _], _ | [_, _, _], _ => exact if_pos hlt
    · obtain rfl : bs = [] := List.length_eq_zero_iff.1 (Nat.lt_one_iff.1 hshort)
      have hf : field b0 6 2 = 2 := by rw [field_eq, htop]; rfl
      rw [chunks.eq_def]
      simp only [if_pos hlt, if_neg hfe, if_neg hff, hf]
      rfl
    · exact absurd hshort (Nat.not_lt_zero _)

/-- The chunk loop's next turn, from the state `t` that a chunk with an encoding of `n` bytes has led to. -/
def afterChunk (total : Nat) (out : List Pixel) (pos : Nat) (t : State) (n : Nat) : Answer :=
  chunks h total t.cur t.cache (emitUpTo total t.cur t.rep.toNat out) (pos + n) rest

section
variable (s : State) (hlt : out.length < total)
include hlt

theorem chunks_rgb (r g b : Byte) : chunks h total s.cur s.cache out pos (0xFE :: r :: g :: b :: rest) =
    afterChunk h rest total out pos (commit ⟨r, g, b, s.cur.a⟩ s) 4 := by
  rw [chunks.eq_def, afterChunk, ← remember_eq]
  exact if_pos hlt

theorem chunks_rgba (r g b a : Byte) : chunks h total s.cur s.cache out pos (0xFF :: r :: g :: b :: a :: rest) =
    afterChunk h rest total out pos (commit ⟨r, g, b, a⟩ s) 5 := by
  rw [chunks.eq_def, afterChunk, ← remember_eq]
  exact if_pos hlt

theorem chunks_index (i : BitVec 6) : chunks h total s.cur s.cache out pos ((0b00#2 ++ i) :: rest) =
    afterChunk h rest total out pos (commit (cacheRead i s) s) 1 := by
  have htop : (0b00#2 ++ i : Byte).extractLsb' 6 2 = 0b00#2 := BitVec.extractLsb'_append_eq_left
  have hfield : (0b00#2 ++ i : Byte).extractLsb' 0 6 = i := BitVec.extractLsb'_append_eq_right
  obtain ⟨hfe, hff⟩ := ne_fullByteTag (b := 0b00#2 ++ i) (by rw [htop]; decide)
  have hread : s.cache.toList.getD i.toNat Config.initCacheEntry = cacheRead i s := by
    rw [List.getD_eq_getElem _ _ (by simpa using i.isLt), Vector.getElem_toList, cacheRead]
  rw [chunks.eq_def, afterChunk, ← remember_eq]
  simp only [if_pos hlt, if_neg hfe, if_neg hff, field_eq, htop, hfield, hread]
  rfl

theorem chunks_diff (dr dg db : BitVec 2) :
    chunks h total s.cur s.cache out pos ((0b01#2 ++ dr ++ dg ++ db) :: rest) =
    afterChunk h rest total out pos
      (commit ⟨diffChannel s.cur.r dr, diffChannel s.cur.g dg, diffChannel s.cur.b db, s.cur.a⟩ s) 1 := by
  obtain ⟨htop, hdr, hdg, hdb⟩ := diffTag_fields 0b01#2 dr dg db
  obtain ⟨hfe, hff⟩ := ne_fullByteTag (b := 0b01#2 ++ dr ++ dg ++ db) (by rw [htop]; decide)
  rw [chunks.eq_def, afterChunk, ← remember_eq]
  simp only [if_pos hlt, if_neg hfe, if_neg hff, field_eq, htop, hdr, hdg, hdb, channel_eq (diffChannel_toNat_int _ _)]
  rfl

theorem chunks_luma (dg : BitVec 6) (drdg dbdg : BitVec 4) :
    chunks h total s.cur s.cache out pos ((0b10#2 ++ dg) :: (drdg ++ dbdg) :: rest) =
    afterChunk h rest total out pos
      (commit ⟨lumaChannel s.cur.r (lumaGreen dg) drdg, addW s.cur.g (lumaGreen dg),
        lumaChannel s.cur.b (lumaGreen dg) dbdg, s.cur.a⟩ s) 2 := by
  have htop : (0b10#2 ++ dg : Byte).extractLsb' 6 2 = 0b10#2 := BitVec.extractLsb'_append_eq_left
  have hfield : (0b10#2 ++ dg : Byte).extractLsb' 0 6 = dg := BitVec.extractLsb'_append_eq_right
  have hhigh : (drdg ++ dbdg : Byte).extractLsb' 4 4 = drdg := BitVec.extractLsb'_append_eq_left
  have hlow : (drdg ++ dbdg : Byte).extractLsb' 0 4 = dbdg := BitVec.extractLsb'_append_eq_right
  obtain ⟨hfe, hff⟩ := ne_fullByteTag (b := 0b10#2 ++ dg) (by rw [htop]; decide)
  rw [chunks.eq_def, afterChunk, ← remember_eq]
  simp only [if_pos hlt, if_neg hfe, if_neg hff, field_eq, htop, hfield, hhigh, hlow,
    channel_eq (lumaChannel_toNat_int _ _ _), channel_eq (addW_lumaGreen_toNat_int _ _)]
  rfl

theorem chunks_run {n : BitVec 6} (hn : n.toNat ≤ 61) : chunks h total s.cur s.cache out pos ((0b11#2 ++ n) :: rest) =
    afterChunk h rest total out pos { s with rep := runCount n } 1 := by
  have htop : (0b11#2 ++ n : Byte).extractLsb' 6 2 = 0b11#2 := BitVec.extractLsb'_append_eq_left
  have hfield : (0b11#2 ++ n : Byte).extractLsb' 0 6 = n := BitVec.extractLsb'_append_eq_right
  have hplen : plenOf (0b11#2 ++ n) = 0 := Laws.EncodedLength.plenOf_run n hn
  have hfe : (0b11#2 ++ n : Byte) ≠ 0xFE := fun e => absurd (e ▸ hplen) (by decide)
  have hff : (0b11#2 ++ n : Byte) ≠ 0xFF := fun e => absurd (e ▸ hplen) (by decide)
  rw [chunks.eq_def, afterChunk, runCount_toNat hn]
  simp only [if_pos hlt, if_neg hfe, if_neg hff, field_eq, htop, hfield]
  rfl

/-- 46_framing.md R104: the loop's turn on a chunk's bytes has the chunk's effect and emits its pixels. -/
theorem chunks_encode {i : Instr} {e : List Byte} {s t : State} (he : encode i = some e) (ht : exec i s = .next t) :
    chunks h total s.cur s.cache out pos (e ++ rest) = afterChunk h rest total out pos t e.length := by
  obtain ⟨hi, rfl⟩ := encode_eq_some.1 he
  cases i with
  | rgb r g b => cases ht; exact chunks_rgb h rest s hlt r g b
  | rgba r g b a => cases ht; exact chunks_rgba h rest s hlt r g b a
  | index i => cases ht; exact chunks_index h rest s hlt i
  | diff dr dg db => cases ht; exact chunks_diff h rest s hlt dr dg db
  | luma dg drdg dbdg => cases ht; exact chunks_luma h rest s hlt dg drdg dbdg
  | run n =>
    have hn : n.toNat ≤ 61 := by simpa [Instr.wellFormed] using hi
    cases (exec_run hn s).symm.trans ht
    exact chunks_run h rest s hlt hn

end

end

end Sys2Proof.Machine.Reference
end

section
/-! PROOFS. The machine against the reference function `decode(B)` (46_framing.md R104): the header, then chunk by chunk with the
chunk's pixels, and at last the trailer. -/
namespace Sys2Proof.Machine

/-! ### What runs keep -/

/-- A step leaves the source ended and the consumer willing (60_exceptions.md R121). -/
theorem step_answered {s t : State} (ha : s.answered) (h : step s = .next t) : t.answered := by
  obtain ⟨he, hd⟩ := ha
  obtain rfl | ⟨-, -, he', -, -, hd'⟩ | ⟨hp, -, hs', -, -⟩ | ⟨-, -, -, -, hs', -, -, hd'⟩ :=
    stepReadsOneByteOrEmitsOnePixel s t h
  · exact ⟨he, hd⟩
  · exact ⟨he'.trans he, hd'.trans hd⟩
  · have hen := enabled_of_step h
    obtain ⟨hr, hlt⟩ : 1 ≤ s.rep.toNat ∧ s.emitted.toNat < s.total.toNat := by simpa [enabled, hp] using hen
    cases (step_emit_always hp hr hlt hd).symm.trans h
    refine ⟨by rw [hs', he], ?_⟩
    obtain ⟨-, e⟩ | ⟨-, -, e⟩ | ⟨-, -, e⟩ := afterEmit_cases (takePixel .always s) <;> rw [e] <;> rfl
  · exact ⟨by rw [hs', he], hd'.trans hd⟩

/-- Runs keep a legal state legal, with counterparts that keep answering. -/
theorem reaches_legal_answered {k : Nat} {s t : State} (hi : s.Inv) (ha : s.answered) (h : reaches k s t) :
    t.Inv ∧ t.answered :=
  reaches_invariant (P := fun u => u.Inv ∧ u.answered)
    (fun u v ⟨hi, ha⟩ hv => ⟨everyStepKeepsTheInvariant u v hi hv, step_answered ha hv⟩) ⟨hi, ha⟩ h

/-- TCNT counts trailer bytes (10_state.md R29): a step that takes no byte leaves it. -/
theorem step_tcnt {s t : State} (hi : s.Inv) (h : step s = .next t) :
    (t.bpos = s.bpos ∧ t.tcnt = s.tcnt) ∨ t.bpos = s.bpos + 1 := by
  by_cases hp : s.phase = .trailer
  · rw [step_trailer hi.enabled hp] at h
    obtain ⟨e, -⟩ | ⟨-, -, e⟩ | ⟨-, -, e⟩ | ⟨v, rest, -, ⟨-, -, e⟩ | ⟨-, e⟩⟩ := trailerStep_cases s <;> cases e.symm.trans h
    · exact .inl ⟨rfl, rfl⟩
    · exact .inl ⟨rfl, rfl⟩
    · exact .inl ⟨rfl, rfl⟩
    · exact .inr rfl
    · exact .inr rfl
  · obtain ⟨-, -, -, -, -, -, -, -, htc, -⟩ := stepWritesOnlyItsPhaseRegisters s t h
    have htc := htc hi hp
    obtain rfl | ⟨hb, -⟩ | ⟨-, hb, -⟩ | ⟨-, -, -, hb, -⟩ := stepReadsOneByteOrEmitsOnePixel s t h
    · exact .inl ⟨rfl, rfl⟩
    · exact .inr hb
    · exact .inl ⟨hb, htc⟩
    · exact .inl ⟨hb, htc⟩

/-- A run that takes no byte leaves TCNT. -/
theorem reaches_tcnt {k : Nat} {s t : State} (hi : s.Inv) (h : reaches k s t) (hb : t.bpos = s.bpos) : t.tcnt = s.tcnt := by
  obtain ⟨-, -, hkept⟩ := reaches_invariant (P := fun u => u.Inv ∧ s.bpos ≤ u.bpos ∧ (u.bpos = s.bpos → u.tcnt = s.tcnt))
    (fun u v ⟨hiu, hle, htc⟩ hv => by
      refine ⟨everyStepKeepsTheInvariant u v hiu hv, ?_⟩
      obtain ⟨hbv, htv⟩ | hbv := step_tcnt hiu hv
      · rw [hbv, htv]
        exact ⟨hle, htc⟩
      · exact ⟨by omega, fun hb' => by omega⟩)
    ⟨hi, le_rfl, fun _ => rfl⟩ h
  exact hkept hb

/-! ### Ending as the reference says -/

/-- Within `n` steps the machine ends from `s`, and its last state shows the answer `a`. -/
def State.EndsAs (s : State) (n : Nat) (a : Reference.Answer) : Prop :=
  ∃ t, reaches n s t ∧ t.final ∧ a.shownBy t

/-- Steps before a run that ends. -/
theorem State.EndsAs.after {j m n : Nat} {s u : State} {a : Reference.Answer} (h : u.EndsAs n a) (hr : reaches j s u)
    (hle : j + n ≤ m) : s.EndsAs m a := by
  obtain ⟨t, ht, hf, ha⟩ := h
  exact ⟨t, reaches_of_le (reaches_add hr ht) hf hle, hf, ha⟩

/-- A step into DONE or ERROR, from which the state shows the answer. -/
theorem State.endsAs_of_step {s t : State} {a : Reference.Answer} (h : step s = .next t) (hf : t.final) (ha : a.shownBy t)
    (n : Nat) : s.EndsAs (n + 1) a :=
  ⟨t, reaches_last h hf n, hf, ha⟩

/-- What the reference answers on the bytes left, from a state between two chunks or before the trailer. -/
def State.remainder (s : State) : Reference.Answer :=
  Reference.chunks (some (headerOf s)) s.total.toNat s.cur s.cache s.out s.bpos s.source.pending

/-! ### The trailer -/

/-- 46_framing.md R104: from the start of the trailer check the machine ends as the reference says. -/
theorem endsAs_remainder_of_trailer {s : State} (hi : s.Inv) (ha : s.answered) (hp : s.phase = .trailer) (hc : s.tcnt = 0) :
    s.EndsAs (63 * s.source.pending.length + 1) s.remainder := by
  obtain ⟨hem, h8⟩ := hi.trailer_phase hp
  have hanswer : s.remainder = s.trailerAnswer := by
    rw [State.remainder, Reference.chunks_of_total_le _ _ _ _ (by rw [hi.out_length, hem]), State.trailerAnswer, hc]
    rfl
  obtain ⟨t, ht, hf, hphase, hpos, herr, hout, hhead⟩ := reaches_trailerAnswer hp h8 ha.1
  obtain ⟨hout', hhead', hdone⟩ : s.trailerAnswer.out = s.out ∧ s.trailerAnswer.header = some (headerOf s) ∧
      (s.trailerAnswer.phase = .done → s.trailerAnswer.err = .none) := Reference.trailer_frame ..
  have herr' : t.err = s.trailerAnswer.err := by
    rw [herr]
    split
    next hd => rw [hi.err_none (by simp [hp]), hdone (hphase.symm.trans hd)]
    next => rfl
  rw [hanswer]
  exact ⟨t, reaches_of_le ht hf (by omega), hf, hphase, herr', hout.trans hout'.symm, hpos,
    fun h heq => hhead.trans (Option.some.inj (hhead'.symm.trans heq))⟩

/-! ### One chunk -/

/-- 60_exceptions.md R109: `End` at a tag or a payload byte. -/
theorem step_chunk_end {s : State} (hp : s.phase = .tag ∨ s.phase = .payload) (hen : enabled s = true)
    (hs : s.source.pending = []) (he : s.source.ended = true) : step s = .next (raise .truncated s) := by
  have hr := byteRead_ended.2 ⟨hs, he⟩
  obtain hp | hp := hp
  · rw [step_tag hen hp, tagStep, hr]
  · rw [step_payload hen hp, payloadStep, hr]

/-- 60_exceptions.md R109, 46_framing.md R104: bytes that are no whole chunk end the decode as truncated. -/
theorem endsAs_truncated {s : State} {e : DecodeError} (hp : s.phase = .tag) (hlt : s.emitted.toNat < s.total.toNat)
    (he : s.source.ended = true) (hd : decode s.source.pending = .error e) :
    s.EndsAs (63 * s.source.pending.length + 1)
      ⟨.error, .truncated, s.out, s.bpos + s.source.pending.length, some (headerOf s)⟩ := by
  cases hbs : s.source.pending with
  | nil =>
    have hstep := step_chunk_end (.inl hp) (by simpa [enabled, hp] using hlt) hbs he
    exact State.endsAs_of_step hstep (.inr rfl) ⟨rfl, rfl, rfl, rfl, fun h heq => Option.some.inj heq⟩ _
  | cons b0 bs =>
    have hshort := length_lt_of_decode_error (hbs ▸ hd)
    have hle := plenOf_le b0
    have hrun := reaches_inChunk (bs := bs) (rest := []) hp hlt hshort (by rw [hbs, List.append_nil])
    have hen : enabled ((consumeBytes (bs.length + 1) [] s).inChunk b0 bs) = true := by
      simp [enabled, inChunk_pcnt_toNat _ b0 (show bs.length ≤ 4 by omega), hshort, hle]
    have hstep := step_chunk_end (.inr (inChunk_phase ..)) hen (by rw [inChunk_source]; rfl) (by rw [inChunk_source]; exact he)
    refine (State.endsAs_of_step hstep (.inr rfl) ?_ 0).after hrun (by rw [List.length_cons]; omega)
    rw [inChunk_frame]
    exact ⟨rfl, rfl, rfl, rfl, fun h heq => Option.some.inj heq⟩

/-- 41_tokenizer.md R87, 46_framing.md R99, R100: from a chunk boundary the next chunk's bytes are read and its pixels go out, as
one turn of the reference's loop says. The run takes at most 63 steps for each byte of the chunk. -/
theorem exists_chunkTurn {s : State} {i : Instr} {rest : List Byte} (hi : s.Inv) (ha : s.answered) (hp : s.phase = .tag)
    (hd : decode s.source.pending = .ok (i, rest)) :
    ∃ k v, reaches k s v ∧ k + 63 * rest.length ≤ 63 * s.source.pending.length ∧ rest.length < s.source.pending.length ∧
      (v.phase = .tag ∨ v.phase = .trailer ∧ v.tcnt = 0) ∧ v.source.pending = rest ∧ v.remainder = s.remainder := by
  obtain ⟨hlt, -⟩ := hi.tag_phase hp
  obtain ⟨e, he, hbs⟩ := encode_of_decode hd
  obtain ⟨t, ht⟩ := exists_exec_of_decode hd s
  obtain ⟨u, hu, hpu, hcur, hcache, hrep, hbpos, hsrc, hem, hout, -, htot, hhead⟩ :=
    chunkTakesItsBytesAndIsApplied i e rest s t he hp hlt hbs ht
  obtain ⟨hiu, hau⟩ := reaches_legal_answered hi ha hu
  obtain ⟨hr1, hr62, hltu⟩ := hiu.emit_phase hpu
  obtain ⟨v, hv, houtv, -, hpv, -, hsrcv, hbposv, hcurv, hcachev, -⟩ :=
    chunkPixelsGoOutTogether u _ hpu hr1 hltu hau.2 rfl
  obtain ⟨hheadv, -, htotv⟩ := headerIsImmutableOnceValid u v _ hiu (hiu.accepted (by simp [hpu]) (by simp [hpu])) hv
  have hne : 0 < e.length := by
    obtain ⟨b0, payload, he', -⟩ := encodedLength i (encode_eq_some.1 he).1
    cases he.symm.trans he'
    exact Nat.succ_pos _
  have hlen : s.source.pending.length = e.length + rest.length := by rw [hbs, List.length_append]
  refine ⟨_, v, reaches_add hu hv, by omega, by omega, ?_, by rw [hsrcv, hsrc], ?_⟩
  · have htc : v.tcnt = 0 := (reaches_tcnt hiu hv hbposv).trans (hiu.before_trailer (by simp [hpu]))
    rw [hpv]
    split
    · exact .inr ⟨rfl, htc⟩
    · exact .inl rfl
  · have hturn := Reference.chunks_encode (some (headerOf s)) (pos := s.bpos) rest
      (by rw [hi.out_length]; exact hlt) he ht
    have hrest : v.source.pending = rest := by rw [hsrcv, hsrc]
    rw [State.remainder, State.remainder, hbs, hturn, Reference.afterChunk, Reference.emitUpTo_eq, hi.out_length, hrest, houtv,
      hcurv, hcachev, hbposv, htotv, hheadv, hcur, hcache, hbpos, htot, hhead, hout, hrep, hem]

/-- 46_framing.md R104: from a chunk boundary, or from the start of the trailer check, the machine ends as the reference says. -/
theorem endsAs_remainder {s : State} (hi : s.Inv) (ha : s.answered)
    (hp : s.phase = .tag ∨ s.phase = .trailer ∧ s.tcnt = 0) :
    s.EndsAs (63 * s.source.pending.length + 1) s.remainder := by
  induction hn : s.source.pending.length using Nat.strong_induction_on generalizing s with
  | _ n ih =>
    subst hn
    obtain hp | ⟨hp, hc⟩ := hp
    · cases hd : decode s.source.pending with
      | error e =>
        obtain ⟨hlt, -⟩ := hi.tag_phase hp
        rw [State.remainder, Reference.chunks_of_decode_error _ _ _ hd (by rw [hi.out_length]; exact hlt)]
        exact endsAs_truncated hp hlt ha.1 hd
      | ok r =>
        obtain ⟨k, v, hv, hk, hlt, hpv, hrest, hrem⟩ := exists_chunkTurn hi ha hp hd
        obtain ⟨hiv, hav⟩ := reaches_legal_answered hi ha hv
        have hend := ih _ (by rw [hrest]; exact hlt) hiv hav hpv rfl
        rw [hrem] at hend
        exact hend.after hv (by rw [hrest]; omega)
    · exact endsAs_remainder_of_trailer hi ha hp hc

/-! ### The header -/

theorem Reference.be32Nat_eq (b3 b2 b1 b0 : Byte) : Reference.be32Nat b3 b2 b1 b0 = (be32 b3 b2 b1 b0).toNat :=
  (be32_toNat b3 b2 b1 b0).symm

/-- The slots of fourteen bytes. -/
theorem toList_fourteen (p : Vector Byte 14) :
    p.toList = [p[0], p[1], p[2], p[3], p[4], p[5], p[6], p[7], p[8], p[9], p[10], p[11], p[12], p[13]] := by
  obtain ⟨⟨l⟩, hl⟩ := p
  match l, hl with
  | [_, _, _, _, _, _, _, _, _, _, _, _, _, _], _ => rfl

/-- The state that the checks see after the header bytes `hb`, from reset (40_header.md R76, R77). -/
def bufferLoaded (hb : Vector Byte 14) (rest : List Byte) : State := loadHeader ((startOn rest).headerStored hb rest)

/-- 40_header.md R78, 46_framing.md R104: the reference checks a header as the machine does, on the registers the machine has
loaded. -/
theorem Reference.decode_header (magic : Magic) (hb : Vector Byte 14) (rest : List Byte) :
    Reference.decode magic (hb.toList ++ rest) =
      if hb.toList.take 4 = magic.toList ∧ (bufferLoaded hb rest).width ≠ 0 ∧ (bufferLoaded hb rest).height ≠ 0 then
        (acceptHeader (bufferLoaded hb rest)).remainder
      else ⟨.error, .header, [], 14, some (headerOf (bufferLoaded hb rest))⟩ := by
  have hhead : headerOf (bufferLoaded hb rest) =
      ⟨be32 hb[4] hb[5] hb[6] hb[7], be32 hb[8] hb[9] hb[10] hb[11], hb[12], hb[13]⟩ := rfl
  have hsize : (acceptHeader (bufferLoaded hb rest)).total.toNat =
      (be32 hb[4] hb[5] hb[6] hb[7]).toNat * (be32 hb[8] hb[9] hb[10] hb[11]).toNat := acceptHeader_total_toNat _
  have hzero (w : BitVec 32) : w.toNat = 0 ↔ w = 0 := BitVec.toNat_inj (y := 0)
  have hbad {p q r : Prop} : ¬ p ∨ q ∨ r ↔ ¬ (p ∧ ¬ q ∧ ¬ r) := by rw [not_and_or, not_and_or, not_not, not_not]
  have hrem : (acceptHeader (bufferLoaded hb rest)).remainder =
      Reference.chunks (some (headerOf (bufferLoaded hb rest))) (acceptHeader (bufferLoaded hb rest)).total.toNat
        Config.initCur (Vector.replicate 64 Config.initCacheEntry) [] 14 rest := rfl
  rw [hrem, hsize, hhead, toList_fourteen, ← ite_not]
  simp only [List.cons_append, List.nil_append, Reference.decode, Reference.be32Nat_eq, BitVec.ofNat_toNat, BitVec.setWidth_eq,
    hzero]
  exact if_congr hbad rfl rfl

/-- 46_framing.md R104: the reference needs all fourteen bytes. -/
theorem Reference.decode_short (magic : Magic) {bs : List Byte} (hlen : bs.length < 14) :
    Reference.decode magic bs = ⟨.error, .header, [], bs.length, none⟩ := by
  rw [Reference.decode]
  rintro _ _ _ _ _ _ _ _ _ _ _ _ _ _ rest rfl
  exact absurd hlen (Nat.not_lt.2 (Nat.le_add_left 14 rest.length))

/-- 40_header.md R76, R108: `End` before the fourteenth header byte. -/
theorem endsAs_shortHeader {bs : List Byte} (hlen : bs.length < 14) :
    (startOn bs).EndsAs (bs.length + 1) ⟨.error, .header, [], bs.length, none⟩ := by
  obtain ⟨t, ht, hframe, hc, -⟩ := reaches_headerBytes (s := startOn bs) (bs := bs) (rest := []) rfl
    (by rwa [← Nat.zero_add bs.length] at hlen) (List.append_nil bs).symm
  have hp : t.phase = .hdr := by rw [hframe]; rfl
  have hlt : t.hcnt.toNat < 14 := hc.trans_lt (by rwa [← Nat.zero_add bs.length] at hlen)
  have hsrc : t.source = ⟨[], true⟩ := by rw [hframe]; rfl
  have hstep : step t = .next (raise .header t) := by
    rw [step_hdr (by simp [enabled, hp, hlt]) hp, headerStep, byteRead_ended.2 ⟨by rw [hsrc], by rw [hsrc]⟩]
  refine (State.endsAs_of_step hstep (.inr rfl) ?_ 0).after ht le_rfl
  rw [hframe]
  exact ⟨rfl, rfl, rfl, Nat.zero_add _, nofun⟩

/-- 40_header.md R78, R80: from the checks on, the machine ends as the reference says. -/
theorem endsAs_decode_header (hb : Vector Byte 14) (rest : List Byte) (hi : (checkHeader Config.magic (bufferLoaded hb rest)).Inv) :
    (checkHeader Config.magic (bufferLoaded hb rest)).EndsAs (63 * rest.length + 1)
      (Reference.decode Config.magic (hb.toList ++ rest)) := by
  have hcheck := checkHeader_eq_ite Config.magic (bufferLoaded hb rest)
  have hbuf : (bufferLoaded hb rest).hbuf = hb := rfl
  rw [hbuf] at hcheck
  rw [Reference.decode_header]
  by_cases hok : hb.toList.take 4 = Config.magic.toList ∧ (bufferLoaded hb rest).width ≠ 0 ∧ (bufferLoaded hb rest).height ≠ 0
  · rw [if_pos hok] at hcheck ⊢
    rw [hcheck] at hi ⊢
    exact endsAs_remainder hi ⟨rfl, rfl⟩ (.inl rfl)
  · rw [if_neg hok] at hcheck ⊢
    rw [hcheck]
    exact ⟨_, reaches_final (.inr rfl) _, .inr rfl, rfl, rfl, rfl, rfl, fun h heq => Option.some.inj heq⟩

/-- Settles O51: `End` comes before the fourteenth byte, or fourteen bytes are stored and checked and the chunks and the trailer
follow. -/
theorem machineAgreesWithReference : Obligations.MachineAgreesWithReference := by
  intro bs
  change (startOn bs).EndsAs (63 * bs.length + 1) (Reference.decode Config.magic bs)
  by_cases hlen : bs.length < 14
  · rw [Reference.decode_short _ hlen]
    exact (endsAs_shortHeader hlen).after (reaches_zero.2 rfl) (by omega)
  · obtain ⟨hb, rest, hbs⟩ : ∃ (hb : Vector Byte 14) (rest : List Byte), bs = hb.toList ++ rest :=
      ⟨⟨(bs.take 14).toArray, by simp; omega⟩, bs.drop 14, (List.take_append_drop 14 bs).symm⟩
    have hrun : reaches 14 (startOn bs) (checkHeader Config.magic (bufferLoaded hb rest)) :=
      reaches_checkHeader (s := startOn bs) rfl rfl hbs
    have hi : (startOn bs).Inv := hostReset_inv ⟨bs, true⟩ .always State.reset
    obtain ⟨hi', -⟩ := reaches_legal_answered hi ⟨rfl, rfl⟩ hrun
    rw [hbs] at hrun ⊢
    exact (endsAs_decode_header hb rest hi').after hrun (by simp; omega)

end Sys2Proof.Machine
end

section
/-! PROOFS. The errors that a step raises, and a bad header (60_exceptions.md R107 to R111). -/
namespace Sys2Proof.Machine

/-! ### Which errors a step raises -/

/-- Settles O23. -/
theorem endInsideChunksIsTruncated : Obligations.EndInsideChunksIsTruncated :=
  fun _ hp hen hs he => step_chunk_end hp hen hs he

/-- 60_exceptions.md R107: a step leaves ERR or raises one of three errors. -/
theorem step_err {s t : State} (h : step s = .next t) :
    t.err = s.err ∨ t.err = .header ∨ t.err = .truncated ∨ t.err = .trailerMismatch := by
  obtain e | ⟨-, -, -, e⟩ | ⟨_, _, -, -, -, e⟩ | ⟨_, _, -, -, -, e⟩ | ⟨_, _, -, -, -, e⟩ | ⟨-, -, -, e⟩ | ⟨_, _, -, -, -, e⟩ |
    ⟨_, _, -, -, -, e⟩ | ⟨_, _, -, -, -, e⟩ | ⟨_, _, -, -, -, e⟩ | ⟨_, -, e, -, -⟩ | ⟨-, -, -, e | e⟩ | ⟨_, _, -, -, e | e⟩ :=
    step_cases h <;> rw [e] <;> simp

/-- Settles O39: the three errors that a step can raise are others. -/
theorem unrecognizedChunkIsNeverRaised : Obligations.UnrecognizedChunkIsNeverRaised := by
  intro s t h hs
  obtain e | e | e | e := step_err h <;> rw [e]
  · exact hs
  all_goals nofun

/-! ### A bad header -/

/-- Fourteen bytes or more are a header buffer and what follows it. -/
theorem exists_headerBytes {bs : List Byte} (h : 14 ≤ bs.length) :
    ∃ (hb : Vector Byte 14) (rest : List Byte), bs = hb.toList ++ rest :=
  ⟨⟨(bs.take 14).toArray, by simpa using h⟩, bs.drop 14, (List.take_append_drop 14 bs).symm⟩

/-- 40_header.md R77, R78: a header with another magic or a size of four zero bytes fails the checks. -/
theorem checkHeader_bufferLoaded_bad {magic : Magic} {hb : Vector Byte 14} {rest : List Byte}
    (hbad : (hb.toList ++ rest).take 4 ≠ magic.toList ∨ ((hb.toList ++ rest).drop 4).take 4 = [0, 0, 0, 0] ∨
      ((hb.toList ++ rest).drop 8).take 4 = [0, 0, 0, 0]) :
    checkHeader magic (bufferLoaded hb rest) = raise .header (bufferLoaded hb rest) := by
  rw [checkHeader_eq_ite, if_neg]
  rintro ⟨hm, hw, hh⟩
  obtain hmagic | hwidth | hheight := hbad
  · exact hmagic (by rw [List.take_append_of_le_length (by simp)]; exact hm)
  · obtain ⟨h4, h5, h6, h7⟩ : hb[4] = 0 ∧ hb[5] = 0 ∧ hb[6] = 0 ∧ hb[7] = 0 := by simpa [toList_fourteen] using hwidth
    have hzero : be32 hb[4] hb[5] hb[6] hb[7] = 0 := by rw [h4, h5, h6, h7]; rfl
    exact hw hzero
  · obtain ⟨h8, h9, h10, h11⟩ : hb[8] = 0 ∧ hb[9] = 0 ∧ hb[10] = 0 ∧ hb[11] = 0 := by
      simpa [toList_fourteen] using hheight
    have hzero : be32 hb[8] hb[9] hb[10] hb[11] = 0 := by rw [h8, h9, h10, h11]; rfl
    exact hh hzero

/-- Settles O27: `End` comes before the fourteenth byte, or the fourteen bytes fail the checks. -/
theorem badHeaderIsHeaderError : Obligations.BadHeaderIsHeaderError := by
  intro bs hbad
  by_cases hlen : bs.length < 14
  · obtain ⟨t, ht, hf, hp, herr, hout, hpos, -⟩ := endsAs_shortHeader hlen
    obtain ⟨hi, -⟩ := reaches_legal_answered (hostReset_inv ⟨bs, true⟩ .always State.reset) ⟨rfl, rfl⟩ ht
    obtain ⟨hv, hem⟩ := hi.header_error herr
    exact ⟨t, reaches_of_le ht hf hlen, hp, herr, hpos.trans (min_eq_right hlen.le).symm, hout, hem, hv⟩
  · have hlen' : 14 ≤ bs.length := Nat.le_of_not_lt hlen
    obtain ⟨hb, rest, rfl⟩ := exists_headerBytes hlen'
    have hrun := reaches_checkHeader (s := startOn (hb.toList ++ rest)) rfl rfl rfl
    have hcheck := checkHeader_bufferLoaded_bad (hbad.resolve_left hlen)
    exact ⟨_, hrun.trans (congrArg Host.Outcome.next hcheck), rfl, rfl, (min_eq_left hlen').symm, rfl, rfl, rfl⟩

end Sys2Proof.Machine
end

section
/-! PROOFS. A decode whose counterparts keep answering ends, within the bounds of 60_exceptions.md R121. -/
namespace Sys2Proof.Machine

/-! ### What one step can leave unchanged -/

/-- 40_header.md R78: the checks read no byte. -/
theorem checkHeader_bpos (magic : Magic) (s : State) : (checkHeader magic s).bpos = s.bpos := by
  obtain e | ⟨-, -, -, e⟩ := checkHeader_cases magic s <;> rw [e] <;> rfl

/-- 41_tokenizer.md R86: applying a chunk reads no byte. -/
theorem applyChunk_bpos {b : Byte} {p : Vector Byte 4} {s t : State} (h : applyChunk (chunkOf b p) s = .next t) :
    t.bpos = s.bpos := by
  rw [applyChunk_shape (chunkOf_wellFormed b p) h]

theorem next_unique {r : Result} {t u : State} (ht : r = .next t) (hu : r = .next u) : t = u :=
  Host.Outcome.next.inj (ht.symm.trans hu)

/-- 46_framing.md R103: outside EMIT a step that answers the same state waits for the source, or the block has ended. -/
theorem waits_of_step_self {s : State} (hemit : s.phase ≠ .emit) (h : step s = .next s) : s.final ∨ byteRead s = .waits := by
  have hen := enabled_of_step h
  cases hp : s.phase with
  | hdr =>
    rw [step_hdr hen hp] at h
    obtain ⟨-, hw⟩ | ⟨e, -⟩ | ⟨v, rest, -, ⟨-, e⟩ | ⟨-, e⟩⟩ := headerStep_cases Config.magic s
    · exact .inr hw
    · simpa [hp] using congrArg State.phase (next_unique e h)
    · simpa using congrArg State.bpos (next_unique e h)
    · simpa [checkHeader_bpos] using congrArg State.bpos (next_unique e h)
  | tag =>
    rw [step_tag hen hp] at h
    obtain ⟨-, hw⟩ | ⟨e, -⟩ | ⟨v, rest, -, ⟨-, e⟩ | ⟨-, e⟩⟩ := tagStep_cases s
    · exact .inr hw
    · simpa [hp] using congrArg State.phase (next_unique e h)
    · simpa using congrArg State.bpos (next_unique e h)
    · simpa using applyChunk_bpos (e.symm.trans h)
  | payload =>
    rw [step_payload hen hp] at h
    obtain ⟨-, hw⟩ | ⟨e, -⟩ | ⟨v, rest, -, ⟨-, e⟩ | ⟨-, e⟩⟩ := payloadStep_cases s
    · exact .inr hw
    · simpa [hp] using congrArg State.phase (next_unique e h)
    · simpa using congrArg State.bpos (next_unique e h)
    · simpa using applyChunk_bpos (e.symm.trans h)
  | emit => exact absurd hp hemit
  | trailer =>
    rw [step_trailer hen hp] at h
    obtain ⟨-, hw⟩ | ⟨-, -, e⟩ | ⟨-, -, e⟩ | ⟨v, rest, -, ⟨-, -, e⟩ | ⟨-, e⟩⟩ := trailerStep_cases s
    · exact .inr hw
    · simpa [hp] using congrArg State.phase (next_unique e h)
    · simpa [hp] using congrArg State.phase (next_unique e h)
    · simpa using congrArg State.bpos (next_unique e h)
    · simpa using congrArg State.bpos (next_unique e h)
  | done => exact .inl (.inl hp)
  | error => exact .inl (.inr hp)

/-- An ended source keeps no read waiting (20_memory.md R41, 60_exceptions.md R121). -/
theorem byteRead_ne_waits {s : State} (ha : s.answered) : byteRead s ≠ .waits := by
  intro hw
  exact absurd (ha.1.symm.trans (byteRead_waits.1 hw).2) nofun

/-- Outside EMIT a step leaves REP alone, or a chunk is applied and the block enters EMIT (10_state.md R33). -/
theorem step_rep {s t : State} (hemit : s.phase ≠ .emit) (h : step s = .next t) : t.rep = s.rep ∨ t.phase = .emit := by
  obtain e | ⟨-, -, -, e⟩ | ⟨_, _, -, -, -, e⟩ | ⟨_, _, -, -, -, e⟩ | ⟨_, _, -, -, -, e⟩ | ⟨-, -, -, e⟩ | ⟨_, _, -, -, -, e⟩ |
    ⟨_, _, -, -, -, e⟩ | ⟨_, _, -, -, -, e⟩ | ⟨_, _, -, -, -, e⟩ | ⟨_, hp, -⟩ | ⟨-, -, -, e | e⟩ | ⟨_, _, -, -, e | e⟩ :=
    step_cases h
  pick_goal 11
  · exact absurd hp hemit
  all_goals rw [e]; simp

/-! ### Progress of a decode whose counterparts keep answering -/

/-- A step from EMIT, while the consumer takes every pixel, emits one and settles at least one repeat (46_framing.md R99). -/
theorem step_emit_progress {s t : State} (hi : s.Inv) (hp : s.phase = .emit) (hd : s.demand = .always) (h : step s = .next t) :
    t.bpos = s.bpos ∧ t.source = s.source ∧ t.emitted.toNat = s.emitted.toNat + 1 ∧ t.rep.toNat < s.rep.toNat := by
  obtain ⟨hr, -, hlt⟩ := hi.emit_phase hp
  have hem : (s.emitted + 1).toNat = s.emitted.toNat + 1 := by bv_omega
  have hrep : (s.rep - 1).toNat < s.rep.toNat := by bv_omega
  cases next_unique h (step_emit_always hp hr hlt hd)
  obtain ⟨-, e⟩ | ⟨-, -, e⟩ | ⟨-, -, e⟩ := afterEmit_cases (takePixel .always s) <;> rw [e]
  · exact ⟨rfl, rfl, hem, hr⟩
  · exact ⟨rfl, rfl, hem, hr⟩
  · exact ⟨rfl, rfl, hem, hrep⟩

/-- 60_exceptions.md R121: a step of a legal state that has not ended, while source and consumer answer, takes a byte, emits a pixel
or is the last. What it does to the measure of the steps left is said beside it: a byte brings at most 62 repeats. -/
theorem step_progress {s t : State} (hi : s.Inv) (ha : s.answered) (hf : ¬ s.final) (h : step s = .next t) :
    (t.bpos = s.bpos + 1 ∧ t.emitted = s.emitted ∧
      s.source.pending.length = t.source.pending.length + 1 ∧ t.rep.toNat ≤ s.rep.toNat + 62) ∨
    (t.bpos = s.bpos ∧ t.emitted.toNat = s.emitted.toNat + 1 ∧ t.source = s.source ∧ t.rep.toNat < s.rep.toNat) ∨
    (t.final ∧ t.bpos = s.bpos ∧ t.emitted = s.emitted ∧ t.source = s.source ∧ t.rep = s.rep) := by
  by_cases hp : s.phase = .emit
  · obtain ⟨hb, hs, hem, hr⟩ := step_emit_progress hi hp ha.2 h
    exact .inr (.inl ⟨hb, hem, hs, hr⟩)
  obtain rfl | ⟨hb, ⟨v, hs⟩, -, hem, -⟩ | ⟨hp', -⟩ | ⟨-, -, hft, hb, hs, hem, -⟩ := stepReadsOneByteOrEmitsOnePixel s t h
  · exact absurd (waits_of_step_self hp h) (not_or.2 ⟨hf, byteRead_ne_waits ha⟩)
  · have hr : t.rep.toNat ≤ s.rep.toNat + 62 := by
      obtain hr | hpt := step_rep hp h
      · rw [hr]; exact Nat.le_add_right ..
      · obtain ⟨-, h62, -⟩ := (everyStepKeepsTheInvariant s t hi h).emit_phase hpt
        exact h62.trans (Nat.le_add_left ..)
    exact .inl ⟨hb, hem, by rw [hs, List.length_cons], hr⟩
  · exact absurd hp' hp
  · have hr : t.rep = s.rep := (step_rep hp h).resolve_right fun hpt => by simp [State.final, hpt] at hft
    exact .inr (.inr ⟨hft, hb, hem, hs, hr⟩)

theorem stepsLeft_of_final {s : State} (hf : s.final) : s.stepsLeft = 63 * s.source.pending.length + s.rep.toNat :=
  congrArg _ (if_pos hf)

theorem stepsLeft_of_not_final {s : State} (hf : ¬ s.final) :
    s.stepsLeft = 63 * s.source.pending.length + s.rep.toNat + 1 :=
  congrArg _ (if_neg hf)

theorem stepsLeft_le (s : State) : s.stepsLeft ≤ 63 * s.source.pending.length + s.rep.toNat + 1 := by
  by_cases hf : s.final
  · rw [stepsLeft_of_final hf]; exact Nat.le_succ _
  · rw [stepsLeft_of_not_final hf]

/-- 60_exceptions.md R121: each such step lowers the steps left, and adds one to the bytes taken or to the pixels emitted unless it is
the last. -/
theorem step_stepsLeft_lt {s t : State} (hi : s.Inv) (ha : s.answered) (hf : ¬ s.final) (h : step s = .next t) :
    t.stepsLeft < s.stepsLeft ∧
      (t.bpos + t.emitted.toNat = s.bpos + s.emitted.toNat + 1 ∨
        t.final ∧ t.bpos + t.emitted.toNat = s.bpos + s.emitted.toNat) := by
  have hle := stepsLeft_le t
  rw [stepsLeft_of_not_final hf]
  obtain ⟨hb, hem, hlen, hr⟩ | ⟨hb, hem, hs, hr⟩ | ⟨hft, hb, hem, hs, hr⟩ := step_progress hi ha hf h
  · rw [hb, hem]
    exact ⟨by omega, .inl (by omega)⟩
  · rw [hb, hem]
    rw [hs] at hle
    exact ⟨by omega, .inl rfl⟩
  · rw [stepsLeft_of_final hft, hb, hem, hs, hr]
    exact ⟨Nat.lt_succ_self _, .inr ⟨hft, rfl⟩⟩

/-- 60_exceptions.md R121: from a legal state whose source and consumer keep answering the machine ends, within the steps left, and
takes one step for each byte and each pixel and one more. -/
theorem exists_end {s : State} (hi : s.Inv) (ha : s.answered) :
    ∃ k t, reaches k s t ∧ t.final ∧ k ≤ s.stepsLeft ∧
      k + (s.bpos + s.emitted.toNat) ≤ t.bpos + t.emitted.toNat + 1 := by
  induction hn : s.stepsLeft using Nat.strong_induction_on generalizing s with
  | _ n ih =>
    subst hn
    by_cases hf : s.final
    · exact ⟨0, s, reaches_zero.2 rfl, hf, Nat.zero_le _, by omega⟩
    obtain ⟨u, hu⟩ := exists_step hi.enabled
    obtain ⟨hlt, hcount | ⟨hfu, hcount⟩⟩ := step_stepsLeft_lt hi ha hf hu
    · obtain ⟨k, t, ht, hft, hk, hkt⟩ := ih _ hlt (everyStepKeepsTheInvariant s u hi hu) (step_answered ha hu) rfl
      exact ⟨k + 1, t, reaches_succ.2 ⟨u, hu, ht⟩, hft, by omega, by omega⟩
    · exact ⟨1, u, reaches_one hu, hfu, by omega, by omega⟩

/-- Settles O49. -/
theorem answeredDecodesEnd : Obligations.AnsweredDecodesEnd := by
  intro s hi ha
  obtain ⟨k, t, ht, hf, hk, -⟩ := exists_end hi ha
  exact ⟨t, reaches_of_le ht hf hk, hf⟩

/-! ### How many bytes a decode takes -/

/-- A bound on BPOS, phase by phase (60_exceptions.md R121): the fourteen bytes of the header, at most five for each chunk, which
emits a pixel at least, and at most nine read by the trailer check. -/
def State.bposBound (s : State) : Nat :=
  match s.phase with
  | .hdr => 14
  | .tag => 14 + 5 * s.emitted.toNat
  | .payload => 14 + 5 * s.emitted.toNat + 1 + s.pcnt.toNat
  | .emit => 14 + 5 * (s.emitted.toNat + 1)
  | .trailer => 14 + 5 * s.total.toNat + s.tcnt.toNat
  | .done => 14 + 5 * s.total.toNat + 9
  | .error => 14 + 5 * s.total.toNat + 9

section
variable {s : State}

theorem bposBound_hdr (hp : s.phase = .hdr) : s.bposBound = 14 := by rw [State.bposBound, hp]

theorem bposBound_tag (hp : s.phase = .tag) : s.bposBound = 14 + 5 * s.emitted.toNat := by rw [State.bposBound, hp]

theorem bposBound_payload (hp : s.phase = .payload) : s.bposBound = 14 + 5 * s.emitted.toNat + 1 + s.pcnt.toNat := by
  rw [State.bposBound, hp]

theorem bposBound_emit (hp : s.phase = .emit) : s.bposBound = 14 + 5 * (s.emitted.toNat + 1) := by rw [State.bposBound, hp]

theorem bposBound_trailer (hp : s.phase = .trailer) : s.bposBound = 14 + 5 * s.total.toNat + s.tcnt.toNat := by
  rw [State.bposBound, hp]

theorem bposBound_of_final (hf : s.final) : s.bposBound = 14 + 5 * s.total.toNat + 9 := by
  obtain hp | hp := hf <;> rw [State.bposBound, hp]

/-- The bound of a legal state that has not ended leaves room for one more byte. -/
theorem bposBound_le_of_not_final (hi : s.Inv) (hf : ¬ s.final) : s.bposBound ≤ 14 + 5 * s.total.toNat + 8 := by
  cases hp : s.phase with
  | hdr => rw [bposBound_hdr hp]; omega
  | tag =>
    obtain ⟨hlt, -⟩ := hi.tag_phase hp
    rw [bposBound_tag hp]
    omega
  | payload =>
    obtain ⟨hlt, hpl, hem, -⟩ := hi.payload_phase hp
    have hle := hpl ▸ plenOf_le s.tag
    rw [bposBound_payload hp]
    omega
  | emit =>
    obtain ⟨-, -, hlt⟩ := hi.emit_phase hp
    rw [bposBound_emit hp]
    omega
  | trailer =>
    obtain ⟨-, h8⟩ := hi.trailer_phase hp
    rw [bposBound_trailer hp]
    omega
  | done => exact absurd (.inl hp) hf
  | error => exact absurd (.inr hp) hf

end

/-- 46_framing.md R99: a pixel that goes out makes up for the bytes of its chunk. -/
theorem takePixel_bpos_le_bound {s t : State} (hi : s.Inv) (hit : t.Inv) (hp : s.phase = .emit) (hb : s.bpos ≤ s.bposBound)
    (hbt : t.bpos = s.bpos) (hem : t.emitted = s.emitted + 1) (hpt : t.phase = .emit ∨ t.phase = .tag ∨ t.phase = .trailer) :
    t.bpos ≤ t.bposBound := by
  obtain ⟨-, -, hlt⟩ := hi.emit_phase hp
  have hem' : t.emitted.toNat = s.emitted.toNat + 1 := by rw [hem]; bv_omega
  rw [bposBound_emit hp] at hb
  obtain hpt | hpt | hpt := hpt
  · rw [bposBound_emit hpt]
    omega
  · rw [bposBound_tag hpt]
    omega
  · obtain ⟨heq, -⟩ := hit.trailer_phase hpt
    rw [bposBound_trailer hpt, ← heq]
    omega

/-- Every step keeps BPOS within the bound. -/
theorem step_bpos_le_bound {s t : State} (hi : s.Inv) (hb : s.bpos ≤ s.bposBound) (h : step s = .next t) :
    t.bpos ≤ t.bposBound := by
  have hroom (hf : ¬ s.final) : s.bpos ≤ 14 + 5 * s.total.toNat + 8 := hb.trans (bposBound_le_of_not_final hi hf)
  obtain rfl | ⟨hp, -, -, rfl⟩ | ⟨_, _, hp, -, -, rfl⟩ | ⟨_, _, hp, -, -, rfl⟩ | ⟨_, _, hp, -, -, rfl⟩ | ⟨hp, -, -, rfl⟩ |
    ⟨v, rest, hp, -, -, rfl⟩ | ⟨_, _, hp, -, -, e⟩ | ⟨v, rest, hp, -, -, rfl⟩ | ⟨_, _, hp, -, -, e⟩ | ⟨d, hp, e, -, hpt⟩ |
    ⟨hp, -, -, rfl | rfl⟩ | ⟨v, rest, hp, -, rfl | rfl⟩ := step_cases h
  · exact hb
  · exact (hroom (by simp [State.final, hp])).trans (Nat.le_succ _)
  · obtain ⟨hlt, -, hpos, -⟩ := hi.header_phase hp
    rw [bposBound_hdr (by exact hp)]
    change s.bpos + 1 ≤ 14
    omega
  · exact Nat.succ_le_succ (hroom (by simp [State.final, hp]))
  · obtain ⟨hlt, -, hpos, -⟩ := hi.header_phase hp
    change s.bpos + 1 ≤ 14 + 5 * s.emitted.toNat
    omega
  · exact (hroom (by obtain hp | hp := hp <;> simp [State.final, hp])).trans (Nat.le_succ _)
  · rw [bposBound_tag hp] at hb
    exact Nat.succ_le_succ hb
  · rw [bposBound_tag hp] at hb
    rw [e]
    change s.bpos + 1 ≤ 14 + 5 * (s.emitted.toNat + 1)
    omega
  · obtain ⟨hlt, -⟩ := hi.payload_phase hp
    have hc : (s.pcnt + 1).toNat = s.pcnt.toNat + 1 := by bv_omega
    rw [bposBound_payload hp] at hb
    rw [bposBound_payload (by exact hp), latchPayload_pcnt, consumeByte_pcnt, hc]
    exact Nat.succ_le_succ hb
  · obtain ⟨hlt, hpl, -⟩ := hi.payload_phase hp
    have hle := hpl ▸ plenOf_le s.tag
    rw [bposBound_payload hp] at hb
    rw [e]
    change s.bpos + 1 ≤ 14 + 5 * (s.emitted.toNat + 1)
    omega
  · exact takePixel_bpos_le_bound hi (everyStepKeepsTheInvariant s t hi h) hp hb (congrArg State.bpos e :)
      (congrArg State.emitted e :) hpt
  · exact (hroom (by simp [State.final, hp])).trans (Nat.le_succ _)
  · exact (hroom (by simp [State.final, hp])).trans (Nat.le_succ _)
  · obtain ⟨-, h8⟩ := hi.trailer_phase hp
    have hc : (s.tcnt + 1).toNat = s.tcnt.toNat + 1 := by bv_omega
    rw [bposBound_trailer hp] at hb
    rw [bposBound_trailer (by exact hp)]
    change s.bpos + 1 ≤ 14 + 5 * s.total.toNat + (s.tcnt + 1).toNat
    omega
  · exact Nat.succ_le_succ (hroom (by simp [State.final, hp]))

/-- A decode never emits more than TOTAL pixels (10_state.md R36 item 2; before a header is accepted both are 0). -/
theorem State.Inv.emitted_le {s : State} (h : s.Inv) : s.emitted.toNat ≤ s.total.toNat := by
  cases hv : s.hdrValid with
  | false =>
    obtain ⟨ht, he, -⟩ := h.before_header hv
    rw [ht, he]
  | true => exact h.emitted_le_total hv

/-- Settles O50: one step for each byte and each pixel and one more, and the bound on BPOS holds along the run. -/
theorem decodeEndsWithinTheStatedBound : Obligations.DecodeEndsWithinTheStatedBound := by
  intro bs
  have hi : (startOn bs).Inv := hostReset_inv ⟨bs, true⟩ .always State.reset
  obtain ⟨k, t, ht, hf, -, hk⟩ := exists_end hi ⟨rfl, rfl⟩
  obtain ⟨hit, hb⟩ := reaches_invariant (P := fun u => u.Inv ∧ u.bpos ≤ u.bposBound)
    (fun u v ⟨hiu, hbu⟩ hv => ⟨everyStepKeepsTheInvariant u v hiu hv, step_bpos_le_bound hiu hbu hv⟩)
    ⟨hi, Nat.zero_le _⟩ ht
  have hsteps : k ≤ t.bpos + t.emitted.toNat + 1 := hk
  have hem := hit.emitted_le
  exact ⟨k, t, ht, hf, by omega, bposBound_of_final hf ▸ hb⟩

end Sys2Proof.Machine
end

section
/-! PROOFS. The cache between two consecutive chunks and within one INDEX (70_reset_and_hazards.md R127, R129). -/
namespace Sys2Proof.Machine

/-! ### Between two chunks -/

/-- A commit done twice is a commit done once (43_index_cache.md R93): the second write puts the same pixel in the same slot. -/
@[simp] theorem commit_commit (new : Pixel) (s : State) : commit new (commit new s) = commit new s := by
  simp only [commit, cacheWrite, Vector.set_set]

/-- An INDEX of the slot just written commits the same pixel again (43_index_cache.md R90, last corner case). -/
theorem exec_index_commit (new : Pixel) (s : State) :
    exec (.index (pixelHash new)) (commit new s) = .next (commit new s) := by
  rw [exec_index, cacheRead_commit_pixelHash, commit_commit]

/-- Settles O18: a chunk that is no RUN is a commit, which the INDEX after it reads and repeats. -/
theorem commitIsVisibleToNextIndex : Obligations.CommitIsVisibleToNextIndex := by
  intro i s t hi h
  obtain ⟨new, -, rfl⟩ | ⟨n, hrun, -, -⟩ := exec_next_cases h
  · exact ⟨cacheRead_commit_pixelHash new s, exec_index_commit new s, rfl⟩
  · exact absurd hrun (hi n)

/-! ### Within one INDEX -/

/-- 70_reset_and_hazards.md R129: wherever the pixel read from slot `i` is written, slot `i` still holds it. The write goes to
slot `i` itself with the pixel it already holds, or to another slot. -/
theorem cacheRead_cacheWrite_cacheRead (i j : CacheIndex) (s : State) :
    cacheRead i (cacheWrite j (cacheRead i s) s) = cacheRead i s := by
  rw [cacheRead_cacheWrite, ite_self]

/-- Settles O19: the read after the write gives the value read before it, so INDEX commits the same pixel either way. -/
theorem indexReadAndWriteCommute : Obligations.IndexReadAndWriteCommute := by
  rintro i s _ rfl
  have hread := cacheRead_cacheWrite_cacheRead i (pixelHash (cacheRead i s)) s
  exact ⟨hread, by rw [hread, exec_index]⟩

end Sys2Proof.Machine
end
